-- ==== Sys2Proof/Word.lean ====
section
/-! DEFINITION. The word types of the AFMS stepper sequencer (spec/00_scope.md R10, R11).
Only what the spec numbers in bits is a bit vector: register contents, the command word, latch bytes and duties. -/

namespace Sys2Proof

/-- An 8-bit value: the latch byte, a duty, `currentstep`, `result`, a register-read byte (R10, R11). -/
abbrev Byte := BitVec 8

/-- A 16-bit unsigned value: `revsteps`, a step count, a speed in rpm (R11). -/
abbrev Half := BitVec 16

/-- A 32-bit value: the command word, `usperstep`, `us_remaining` (R11, R100). -/
abbrev Word := BitVec 32

end Sys2Proof
end

