-- ==== Sys2Proof/Syntax.lean ====
section
/-! DEFINITION. The commands of the block as syntax: one constructor of `Instr` per row of spec/opcode_table.json,
and the names its operands range over (spec/30_encoding.md R103 to R105, R108; spec/00_scope.md R3, R10). -/

namespace Sys2Proof

/-- The four DC motor slots, numbered 1 to 4 in the spec (R10). -/
inductive Motor where
  | m1 | m2 | m3 | m4
deriving DecidableEq, Repr, Inhabited

/-- The two stepper slots, numbered 1 and 2 in the spec (R10). -/
inductive Stepper where
  | s1 | s2
deriving DecidableEq, Repr, Inhabited

/-- The four PWM channels, numbered 0 to 3 in the spec (R10). -/
inductive Channel where
  | ch0 | ch1 | ch2 | ch3
deriving DecidableEq, Repr, Inhabited

/-- The two PWM channel groups: group 0 is channels 0 and 1, group 1 is channels 2 and 3 (R26). -/
inductive Group where
  | g0 | g1
deriving DecidableEq, Repr, Inhabited

/-- The directions a `DIR` field can name (R104). -/
inductive Direction where
  | forward | backward | brake | release
deriving DecidableEq, Repr, Inhabited

/-- The stepping styles a `STY` field can name (R105). -/
inductive Style where
  | single | double | interleave | microstep
deriving DecidableEq, Repr, Inhabited

/-- A command with its operands (R3, R108). Slots, channels, directions and styles are names, so an `IDX`, `DIR` or
`STY` code that names nothing is not an instruction at all: the decoder rejects it (R111). -/
inductive Instr where
  /-- ENABLE (R150). -/
  | enable
  /-- WRITE_LATCH `#v` (R151). -/
  | writeLatch (v : Byte)
  /-- SET_DUTY `ch, #v` (R152). -/
  | setDuty (ch : Channel) (v : Byte)
  /-- DC_INIT `n` (R182). -/
  | dcInit (n : Motor)
  /-- DC_RUN `n, dir` (R183). -/
  | dcRun (n : Motor) (dir : Direction)
  /-- DC_SPEED `n, #v` (R184). -/
  | dcSpeed (n : Motor) (v : Byte)
  /-- STEPPER_INIT `st, #rs` (R218). -/
  | stepperInit (st : Stepper) (rs : Half)
  /-- STEPPER_SPEED `st, #rpm` (R219). -/
  | stepperSpeed (st : Stepper) (rpm : Half)
  /-- ONESTEP `st, dir, sty` (R220). -/
  | onestep (st : Stepper) (dir : Direction) (sty : Style)
  /-- STEP `st, #n, dir, sty` (R221). -/
  | step (st : Stepper) (n : Half) (dir : Direction) (sty : Style)
  /-- RELEASE `st` (R222). -/
  | release (st : Stepper)
deriving DecidableEq, Repr

end Sys2Proof
end

