-- ==== Sys2Proof/WellFormed.lean ====
section
/-! DEFINITION. Which terms of `Instr` are commands of the block. Slots, channels and styles cannot be ill-formed (their
types hold the legal values only); what is left to check is that ONESTEP and STEP name a direction a stepper can take
(spec/30_encoding.md R104). -/

namespace Sys2Proof

/-- The directions ONESTEP and STEP take: FORWARD and BACKWARD only (R104). -/
def Direction.steps : Direction → Bool
  | .forward => true
  | .backward => true
  | .brake => false
  | .release => false

/-- The well-formed commands: every one whose direction its row admits (R104). -/
def Instr.wf : Instr → Bool
  | .enable => true
  | .writeLatch _ => true
  | .setDuty _ _ => true
  | .dcInit _ => true
  | .dcRun _ _ => true
  | .dcSpeed _ _ => true
  | .stepperInit _ _ => true
  | .stepperSpeed _ _ => true
  | .onestep _ dir _ => dir.steps
  | .step _ _ dir _ => dir.steps
  | .release _ => true

end Sys2Proof
end

