-- ==== Sys2Proof/Decode.lean ====
section
/-! DEFINITION. Decoding and encoding of the 32-bit command word (spec/30_encoding.md R100 to R111). The decoder is total
on every word and rejects by name, in the order R111 fixes; the encoder is written from the field table R101 and the
opcode map R108. -/

namespace Sys2Proof

/-! ### Fields of the word (R101, R102) -/

/-- `OP = w[31:28]`. -/
def fieldOP (w : Word) : BitVec 4 := w.extractLsb' 28 4

/-- `IDX = w[27:25]`. -/
def fieldIDX (w : Word) : BitVec 3 := w.extractLsb' 25 3

/-- `DIR = w[24:22]`. -/
def fieldDIR (w : Word) : BitVec 3 := w.extractLsb' 22 3

/-- `STY = w[21:19]`. -/
def fieldSTY (w : Word) : BitVec 3 := w.extractLsb' 19 3

/-- `IMM = w[15:0]`, used whole as `IMM16`. -/
def fieldIMM16 (w : Word) : Half := w.extractLsb' 0 16

/-- `IMM8 = w[7:0]`. -/
def fieldIMM8 (w : Word) : Byte := w.extractLsb' 0 8

/-! ### Codes of the fields (R103 to R105, R108) -/

/-- The names of the opcode map R108. -/
inductive Op where
  | enable | writeLatch | setDuty | dcInit | dcRun | dcSpeed
  | stepperInit | stepperSpeed | onestep | step | release
deriving DecidableEq, Repr

/-- The opcode of a mnemonic (R108). -/
def Op.code : Op → BitVec 4
  | .enable => 0x1
  | .writeLatch => 0x2
  | .setDuty => 0x3
  | .dcInit => 0x4
  | .dcRun => 0x5
  | .dcSpeed => 0x6
  | .stepperInit => 0x7
  | .stepperSpeed => 0x8
  | .onestep => 0x9
  | .step => 0xA
  | .release => 0xB

/-- The mnemonic of an opcode; 0x0 and 0xC to 0xF are illegal (R109). -/
def Op.ofCode (c : BitVec 4) : Option Op :=
  match c.toNat with
  | 0x1 => some .enable
  | 0x2 => some .writeLatch
  | 0x3 => some .setDuty
  | 0x4 => some .dcInit
  | 0x5 => some .dcRun
  | 0x6 => some .dcSpeed
  | 0x7 => some .stepperInit
  | 0x8 => some .stepperSpeed
  | 0x9 => some .onestep
  | 0xA => some .step
  | 0xB => some .release
  | _ => none

/-- The `match` column of R110. -/
def Op.matchBits : Op → Word
  | .enable => 0x10000000
  | .writeLatch => 0x20000000
  | .setDuty => 0x30000000
  | .dcInit => 0x40000000
  | .dcRun => 0x50000000
  | .dcSpeed => 0x60000000
  | .stepperInit => 0x70000000
  | .stepperSpeed => 0x80000000
  | .onestep => 0x90000000
  | .step => 0xA0000000
  | .release => 0xB0000000

/-- The `mask` column of R110: the opcode and every bit the command must hold at 0. -/
def Op.maskBits : Op → Word
  | .enable => 0xFFFFFFFF
  | .writeLatch => 0xFFFFFF00
  | .setDuty => 0xF1FFFF00
  | .dcInit => 0xF1FFFFFF
  | .dcRun => 0xF03FFFFF
  | .dcSpeed => 0xF1FFFF00
  | .stepperInit => 0xF1FF0000
  | .stepperSpeed => 0xF1FF0000
  | .onestep => 0xF007FFFF
  | .step => 0xF0070000
  | .release => 0xF1FFFFFF

/-- `IDX` as a DC motor slot: 1 to 4 (R103). -/
def Motor.ofIdx (i : BitVec 3) : Option Motor :=
  match i.toNat with
  | 1 => some .m1
  | 2 => some .m2
  | 3 => some .m3
  | 4 => some .m4
  | _ => none

/-- `IDX` as a stepper slot: 1 or 2 (R103). -/
def Stepper.ofIdx (i : BitVec 3) : Option Stepper :=
  match i.toNat with
  | 1 => some .s1
  | 2 => some .s2
  | _ => none

/-- `IDX` as a PWM channel: 0 to 3 (R103). -/
def Channel.ofIdx (i : BitVec 3) : Option Channel :=
  match i.toNat with
  | 0 => some .ch0
  | 1 => some .ch1
  | 2 => some .ch2
  | 3 => some .ch3
  | _ => none

/-- `DIR` as a direction (R104). -/
def Direction.ofCode (d : BitVec 3) : Option Direction :=
  match d.toNat with
  | 1 => some .forward
  | 2 => some .backward
  | 3 => some .brake
  | 4 => some .release
  | _ => none

/-- `DIR` as a stepper's direction: only the codes 1 and 2 (R104). -/
def Direction.ofStepCode (d : BitVec 3) : Option Direction :=
  match d.toNat with
  | 1 => some .forward
  | 2 => some .backward
  | _ => none

/-- `STY` as a style (R105). -/
def Style.ofCode (y : BitVec 3) : Option Style :=
  match y.toNat with
  | 1 => some .single
  | 2 => some .double
  | 3 => some .interleave
  | 4 => some .microstep
  | _ => none

/-- The `IDX` code of a DC motor slot (R103). -/
def Motor.idx : Motor → BitVec 3
  | .m1 => 1
  | .m2 => 2
  | .m3 => 3
  | .m4 => 4

/-- The `IDX` code of a stepper slot (R103). -/
def Stepper.idx : Stepper → BitVec 3
  | .s1 => 1
  | .s2 => 2

/-- The `IDX` code of a PWM channel (R103). -/
def Channel.idx : Channel → BitVec 3
  | .ch0 => 0
  | .ch1 => 1
  | .ch2 => 2
  | .ch3 => 3

/-- The `DIR` code of a direction (R104). -/
def Direction.code : Direction → BitVec 3
  | .forward => 1
  | .backward => 2
  | .brake => 3
  | .release => 4

/-- The `STY` code of a style (R105). -/
def Style.code : Style → BitVec 3
  | .single => 1
  | .double => 2
  | .interleave => 3
  | .microstep => 4

/-! ### The decoder (R111) -/

/-- Why a word is no command: the decode faults, codes 0x01 to 0x05 (R264). -/
inductive DecodeFault where
  /-- `OP` is 0x0 or 0xC to 0xF (R109). -/
  | illegalOpcode
  /-- A must-be-zero bit of the row's mask is 1 (R106). -/
  | reservedField
  /-- `IDX` is outside the command's legal range (R103). -/
  | badIndex
  /-- `DIR` names no direction the command takes (R104). -/
  | badDirection
  /-- `STY` names no style (R105). -/
  | badStyle
deriving DecidableEq, Repr

/-- `some` value, or the decode fault the failed check names. -/
def orReject {α : Type} (why : DecodeFault) : Option α → Except DecodeFault α
  | some a => .ok a
  | none => .error why

/-- The field checks of R111 that follow the must-be-zero check: `IDX`, then `DIR`, then `STY`. -/
def decodeFields (op : Op) (w : Word) : Except DecodeFault Instr :=
  match op with
  | .enable => .ok .enable
  | .writeLatch => .ok (.writeLatch (fieldIMM8 w))
  | .setDuty =>
    (orReject .badIndex (Channel.ofIdx (fieldIDX w))).map fun ch => .setDuty ch (fieldIMM8 w)
  | .dcInit =>
    (orReject .badIndex (Motor.ofIdx (fieldIDX w))).map .dcInit
  | .dcRun =>
    (orReject .badIndex (Motor.ofIdx (fieldIDX w))).bind fun n =>
    (orReject .badDirection (Direction.ofCode (fieldDIR w))).map fun dir => .dcRun n dir
  | .dcSpeed =>
    (orReject .badIndex (Motor.ofIdx (fieldIDX w))).map fun n => .dcSpeed n (fieldIMM8 w)
  | .stepperInit =>
    (orReject .badIndex (Stepper.ofIdx (fieldIDX w))).map fun st => .stepperInit st (fieldIMM16 w)
  | .stepperSpeed =>
    (orReject .badIndex (Stepper.ofIdx (fieldIDX w))).map fun st => .stepperSpeed st (fieldIMM16 w)
  | .onestep =>
    (orReject .badIndex (Stepper.ofIdx (fieldIDX w))).bind fun st =>
    (orReject .badDirection (Direction.ofStepCode (fieldDIR w))).bind fun dir =>
    (orReject .badStyle (Style.ofCode (fieldSTY w))).map fun sty => .onestep st dir sty
  | .step =>
    (orReject .badIndex (Stepper.ofIdx (fieldIDX w))).bind fun st =>
    (orReject .badDirection (Direction.ofStepCode (fieldDIR w))).bind fun dir =>
    (orReject .badStyle (Style.ofCode (fieldSTY w))).map fun sty => .step st (fieldIMM16 w) dir sty
  | .release =>
    (orReject .badIndex (Stepper.ofIdx (fieldIDX w))).map .release

/-- Decoding, total on every 32-bit word, with the encoding faults in the order of R111: opcode, must-be-zero bits,
then the field checks. -/
def decodeWord (w : Word) : Except DecodeFault Instr :=
  match Op.ofCode (fieldOP w) with
  | none => .error .illegalOpcode
  | some op => if w &&& op.maskBits = op.matchBits then decodeFields op w else .error .reservedField

/-- The decoder under the host's numbering: an instruction is one 32-bit word, its bits above `nbits` zero. A row of
more than 32 bits is no command of this block (R100). -/
def decodeTableWord (nbits w : Nat) : Option Instr :=
  if nbits ≤ 32 then
    match decodeWord (BitVec.ofNat 32 (w % 2 ^ nbits)) with
    | .ok i => some i
    | .error _ => none
  else none

/-! ### The encoder (R101, R107, R108) -/

/-- The word with the six fields `OP`, `IDX`, `DIR`, `STY`, `RSV = 0`, `IMM`, most significant first (R101). -/
def wordOf (op : BitVec 4) (idx dir sty : BitVec 3) (imm : Half) : Word :=
  op ++ idx ++ dir ++ sty ++ 0#3 ++ imm

/-- An 8-bit immediate in the `IMM` field: `w[15:8]` must be 0 (R102). -/
def imm8 (v : Byte) : Half := v.setWidth 16

/-- The word of a command; unused fields are 0 (R106, R107). -/
def encode : Instr → Word
  | .enable => wordOf Op.enable.code 0 0 0 0
  | .writeLatch v => wordOf Op.writeLatch.code 0 0 0 (imm8 v)
  | .setDuty ch v => wordOf Op.setDuty.code ch.idx 0 0 (imm8 v)
  | .dcInit n => wordOf Op.dcInit.code n.idx 0 0 0
  | .dcRun n dir => wordOf Op.dcRun.code n.idx dir.code 0 0
  | .dcSpeed n v => wordOf Op.dcSpeed.code n.idx 0 0 (imm8 v)
  | .stepperInit st rs => wordOf Op.stepperInit.code st.idx 0 0 rs
  | .stepperSpeed st rpm => wordOf Op.stepperSpeed.code st.idx 0 0 rpm
  | .onestep st dir sty => wordOf Op.onestep.code st.idx dir.code sty.code 0
  | .step st n dir sty => wordOf Op.step.code st.idx dir.code sty.code n
  | .release st => wordOf Op.release.code st.idx 0 0 0

/-- The row of the opcode map an instruction belongs to (R108). -/
def Instr.op : Instr → Op
  | .enable => .enable
  | .writeLatch _ => .writeLatch
  | .setDuty _ _ => .setDuty
  | .dcInit _ => .dcInit
  | .dcRun _ _ => .dcRun
  | .dcSpeed _ _ => .dcSpeed
  | .stepperInit _ _ => .stepperInit
  | .stepperSpeed _ _ => .stepperSpeed
  | .onestep _ _ _ => .onestep
  | .step _ _ _ _ => .step
  | .release _ => .release

end Sys2Proof
end

