-- ==== Sys2Proof/Config.lean ====
section
/-! DEFINITION. What is fixed for one built block and what the spec leaves open.

`Params` is the configuration the spec names as parameters (spec/00_scope.md R12): a model "takes them as arguments".
`step` has a fixed type, so the arguments ride in `State.cfg`; no step ever changes that field, and a statement that holds
for every state holds for every configuration. The parameters the spec gives no value at all, and the values it calls
unspecified, are constants with no body: nothing can be proved about which value they are. -/

namespace Sys2Proof

/-- One value for each DC motor slot. -/
structure PerMotor (α : Type) where
  m1 : α
  m2 : α
  m3 : α
  m4 : α
deriving DecidableEq, Repr, Inhabited

/-- One value for each stepper slot. -/
structure PerStepper (α : Type) where
  s1 : α
  s2 : α
deriving DecidableEq, Repr, Inhabited

/-- One value for each PWM channel. -/
structure PerChannel (α : Type) where
  ch0 : α
  ch1 : α
  ch2 : α
  ch3 : α
deriving DecidableEq, Repr, Inhabited

/-- The parameter `M`: 8 or 16 microsteps per full step (R4, R12). -/
inductive Resolution where
  | eight | sixteen
deriving DecidableEq, Repr, Inhabited

/-- The latch bits of side A and side B of one motor slot: one row of `LATCH_BIT` (R24). -/
structure MotorBits where
  a : Fin 8
  b : Fin 8
deriving DecidableEq, Repr, Inhabited

/-- The parameters of R12 that a rule of the transaction-level or cycle-level model reads. -/
structure Params where
  /-- `M`. -/
  resolution : Resolution
  /-- `CURVE[0..M]` (R211). -/
  curve : List Byte
  /-- `LATCH_BIT` (R24). -/
  latchBit : PerMotor MotorBits
  /-- `PWM_PRESENT[0..3]` (R27). -/
  pwmPresent : PerChannel Bool
  /-- `F_CLK` in Hz; `CYC_PER_US` is computed from it. -/
  fClk : Nat
  /-- `L_DIV`, the cycles of a STEPPER_SPEED division (R219). -/
  lDiv : Nat
deriving DecidableEq, Repr, Inhabited

/-- `step_ctx`: the stepper slot, direction and style of the running STEP and its per-step wait (R36). -/
structure StepCtx where
  stepper : Stepper
  dir : Direction
  style : Style
  spacing : Word
deriving DecidableEq, Repr, Inhabited

/-- `GROUP_FREQ[g]`: the PWM base frequency of a channel group, an opaque constant of the configuration (R12, R26). -/
opaque Config.groupFreq : Group → Nat

/-- The part of `FALLBACK_ON` the spec leaves open: its values at duties other than 0 and 255 (R12, R162; log entry 5). -/
opaque Config.fallbackOpen : Byte → Bool

/-- `sr` of the external register at power-up: unspecified, reset does not change it (R39; log entry 3). -/
opaque Config.powerUpSr : Byte

/-- `out_q` of the external register at power-up: unspecified, reset does not change it (R39; log entry 3). -/
opaque Config.powerUpOutQ : Byte

/-- `step_ctx` after the `k`-th reset: unspecified (R36; log entry 4). -/
opaque Config.freeStepCtx : Nat → StepCtx

end Sys2Proof
end

