-- ==== Sys2Proof/Machine/Defaults.lean ====
section
/-! DEFINITION. The parameter values `State.reset` carries: the ones spec/95_test_vectors.md fixes for its vectors, with
the spec's default `CURVE` (42_stepper.md R212) and default `LATCH_BIT` (10_state.md R24). DESIGN CHOICE, log entry 1:
a statement about `State.reset` speaks of this one configuration; statements about every state speak of all of them. -/

namespace Sys2Proof.Machine

/-- The default `CURVE` for `M = 8` (R212). -/
def curve8 : List Byte := [0, 50, 98, 142, 180, 212, 236, 250, 255]

/-- The default `CURVE` for `M = 16` (R212). -/
def curve16 : List Byte := [0, 25, 50, 74, 98, 120, 141, 162, 180, 197, 212, 225, 236, 244, 250, 253, 255]

/-- The default latch bit layout (R24). -/
def defaultLatchBit : PerMotor MotorBits where
  m1 := ⟨2, 3⟩
  m2 := ⟨1, 4⟩
  m3 := ⟨5, 7⟩
  m4 := ⟨0, 6⟩

/-- `M = 8`, the default tables, every channel with PWM, a 16 MHz clock and a one-cycle division. -/
def defaultParams : Params where
  resolution := .eight
  curve := curve8
  latchBit := defaultLatchBit
  pwmPresent := ⟨true, true, true, true⟩
  fClk := 16000000
  lDiv := 1

/-- The same with `M = 16` and its default `CURVE`: the other resolution of R4. -/
def defaultParams16 : Params :=
  { defaultParams with resolution := .sixteen, curve := curve16 }

end Sys2Proof.Machine
end

