-- ==== Sys2Proof/Machine/State.lean ====
section
/-! DEFINITION. The state of the machine as plain data: every piece of state spec/10_state.md gives the block (R22 to R41),
the external shift register it drives (R39), the host's side of the ports (R38), and four fields that are the MODEL's own
(`env`, `events`, `clock`, `draws`; log entries 2, 4, 6, 7). -/

namespace Sys2Proof.Machine

/-- Reasons the model itself would stop. There are none: a contract violation is a state of the block (`State.fault`,
R262), and every step of the block, a stuck one included, has a next state. So this type has no constructor, and the type
alone says that no step of the model ends in a fault. -/
inductive Fault where
deriving DecidableEq, Repr

/-- Reasons `exec` has no meaning for an instruction. -/
inductive Refusal where
  /-- Raised only by an arm of `exec` whose instruction has no meaning yet; no arm raises it now. Safe: the model stops
  where the hardware goes on. -/
  | notModelled (mnemonic : String)
deriving DecidableEq, Repr

/-- The values of `fault_code` (R263); codes 0x0B to 0xFF are never recorded, so they have no name (93 U24). -/
inductive FaultCode where
  | none | illegalOpcode | reservedField | badIndex | badDirection | badStyle
  | notEnabled | notInitialized | resourceConflict | speedZero | speedUnset
deriving DecidableEq, Repr, Inhabited

/-- `seq_state` (R36). -/
inductive SeqState where
  | idle | xfer | wait | div
deriving DecidableEq, Repr, Inhabited

/-- One state update of a `Commit` list or of an update made at acceptance (R14). -/
inductive Update where
  /-- `latch_state <- v`. -/
  | latchState (v : Byte)
  /-- `duty[ch] <- v`. -/
  | duty (ch : Channel) (v : Byte)
  /-- `dc_init[n] <- 1`. -/
  | dcInit (n : Motor)
  /-- `st_init[st] <- 1`. -/
  | stInit (st : Stepper)
  /-- `revsteps[st] <- v`. -/
  | revsteps (st : Stepper) (v : Half)
  /-- `usperstep[st] <- v`. -/
  | usperstep (st : Stepper) (v : Word)
  /-- `speed_set[st] <- b`. -/
  | speedSet (st : Stepper) (b : Bool)
  /-- `currentstep[st] <- p`. -/
  | currentstep (st : Stepper) (p : Byte)
  /-- `result <- p`. -/
  | result (p : Byte)
  /-- `busy <- 0`. -/
  | busyClear
  /-- STEP's addition to the commit: `steps_remaining <- steps_remaining - 1; us_remaining <- S; prescale <- 0` and the
  start of the wait (R221, R232). -/
  | stepWait (spacing : Word)
deriving DecidableEq, Repr

/-- What a command does after its checks, as a command rule's pseudocode says it (R15): the one description that both the
transaction (`perform`) and the clock edges (`startPlan`, `sequencerEdge`) carry out. -/
inductive Plan where
  /-- `raise Fault(code)` (R262). -/
  | raise (code : FaultCode)
  /-- Updates at the accepting edge `E0`, one cycle, never busy (SET_DUTY, DC_SPEED, STEP with `n = 0`). -/
  | instant (ups : List Update)
  /-- `Transfer(v) with Commit ups`, 18 cycles (R145, R147). -/
  | transfer (v : Byte) (ups : List Update)
  /-- ENABLE: `Transfer(0x00)`, then the extra edge that opens the outputs, 19 cycles (R150). -/
  | enable
  /-- A division of `L_DIV` cycles whose result is written at its last edge (R219). -/
  | divide (ups : List Update)
  /-- STEP with `n > 0`: `n` StepOnce transfers, each followed by a wait (R221). -/
  | steps (ctx : StepCtx) (n : Half)
deriving DecidableEq, Repr

/-- One output event: the latch byte at `out_q` and the duties at a commit, with the microseconds the sequencer waits
after it (R17). -/
structure OutputEvent where
  latch : Byte
  duty : PerChannel Byte
  waitUs : Word
deriving DecidableEq, Repr

/-- A move of an agent other than the sequencer (R285, R286; log entry 2). -/
inductive EnvMove where
  /-- The host puts a word on the command port and holds it there until it is accepted. -/
  | present (w : Word)
  /-- One rising edge of `clk` with `rst = 1`. -/
  | reset
  /-- One rising edge of `clk` with `rst = 0`: the cycle-level machine advances by exactly one edge. -/
  | clock
  /-- One tick of the PWM generators of a group (R160). -/
  | tick (g : Group)
  /-- The host drives `rd_addr`. -/
  | readAddr (a : Byte)
deriving DecidableEq, Repr

/-- The machine. -/
structure State where
  /-- The configuration (R12). No step changes it. -/
  cfg : Params
  /-- `latch_state` (R22). -/
  latchState : Byte
  /-- `duty[0..3]` (R25). -/
  duty : PerChannel Byte
  /-- `enabled` (R28). -/
  enabled : Bool
  /-- `busy` (R29). -/
  busy : Bool
  /-- `fault` (R30). -/
  fault : Bool
  /-- `fault_code` (R30, R263). -/
  faultCode : FaultCode
  /-- `fault_cmd` (R30). -/
  faultCmd : Word
  /-- `dc_init[1..4]` (R31). -/
  dcInit : PerMotor Bool
  /-- `st_init[1..2]` (R32). -/
  stInit : PerStepper Bool
  /-- `currentstep[1..2]`, the phase `P` (R34, R201). -/
  currentstep : PerStepper Byte
  /-- `revsteps[1..2]` (R34). -/
  revsteps : PerStepper Half
  /-- `usperstep[1..2]` (R34). -/
  usperstep : PerStepper Word
  /-- `speed_set[1..2]` (R34). -/
  speedSet : PerStepper Bool
  /-- `result` (R35). -/
  result : Byte
  /-- `seq_state` (R36). -/
  seqState : SeqState
  /-- `xfer_cycle`, 0 to 17 (R36; 90_conflicts.md C12). -/
  xferCycle : Nat
  /-- `xfer_value` (R36). -/
  xferValue : Byte
  /-- `pending` (R36). -/
  pending : List Update
  /-- `steps_remaining` (R36). -/
  stepsRemaining : Half
  /-- `us_remaining` (R36). -/
  usRemaining : Word
  /-- `prescale`, 0 to `CYC_PER_US - 1` (R36). -/
  prescale : Nat
  /-- `step_ctx` (R36). -/
  stepCtx : StepCtx
  /-- `div_count`, 0 to `L_DIV` (R36). -/
  divCount : Nat
  /-- Pin `SER` (R38). -/
  ser : Bool
  /-- Pin `SRCLK` (R38). -/
  srclk : Bool
  /-- Pin `RCLK` (R38). -/
  rclk : Bool
  /-- Pin `OE_n`, active low (R38). -/
  oeN : Bool
  /-- `sr`, the shift stage of the external register (R39). -/
  sr : Byte
  /-- `out_q`, the output stage of the external register (R39). -/
  outQ : Byte
  /-- `pwm_cnt[0..3]`, 0 to 254 (R41). -/
  pwmCnt : PerChannel Nat
  /-- `pwm_active[0..3]` (R41). -/
  pwmActive : PerChannel Byte
  /-- Input `cmd_valid`: the host presents a command (R38). -/
  cmdValid : Bool
  /-- Input `cmd_word` (R38). -/
  cmdWord : Word
  /-- Input `rd_addr` (R38). -/
  rdAddr : Byte
  /-- MODEL: the moves the other agents make next, first at the head (log entry 2). -/
  env : List EnvMove
  /-- MODEL: the output events so far, the latest first (R17; log entry 6). -/
  events : List OutputEvent
  /-- MODEL: the rising edges of `clk` so far (log entry 7). -/
  clock : Nat
  /-- MODEL: how many free values have been drawn (log entry 4). -/
  draws : Nat
deriving DecidableEq, Repr, Inhabited

/-- The machine right after reset (R301), in the configuration of log entry 1, with no command presented and no move
waiting. `sr` and `out_q` are not reset and unspecified (log entry 3); `step_ctx` is unspecified (log entry 4). -/
def State.reset : State where
  cfg := defaultParams
  latchState := 0
  duty := ⟨0, 0, 0, 0⟩
  enabled := false
  busy := false
  fault := false
  faultCode := .none
  faultCmd := 0
  dcInit := ⟨false, false, false, false⟩
  stInit := ⟨false, false⟩
  currentstep := ⟨0, 0⟩
  revsteps := ⟨0, 0⟩
  usperstep := ⟨0, 0⟩
  speedSet := ⟨false, false⟩
  result := 0
  seqState := .idle
  xferCycle := 0
  xferValue := 0
  pending := []
  stepsRemaining := 0
  usRemaining := 0
  prescale := 0
  stepCtx := Config.freeStepCtx 0
  divCount := 0
  ser := false
  srclk := false
  rclk := false
  oeN := true
  sr := Config.powerUpSr
  outQ := Config.powerUpOutQ
  pwmCnt := ⟨0, 0, 0, 0⟩
  pwmActive := ⟨0, 0, 0, 0⟩
  cmdValid := false
  cmdWord := 0
  rdAddr := 0
  env := []
  events := []
  clock := 0
  draws := 1

/-- What every piece of the block's state holds before the first reset edge: unspecified, so nothing is known of it
(R303; log entry 18). -/
opaque Config.powerUpState : State

/-- The machine at power-up (R303): the block's state is unspecified, the configuration is the built one, and neither the
host nor any other agent has moved. The block is defined only from its first reset edge on; `State.reset` stands after
that edge. -/
def State.powerUp : State :=
  { Config.powerUpState with
    cfg := defaultParams
    sr := Config.powerUpSr
    outQ := Config.powerUpOutQ
    cmdValid := false
    cmdWord := 0
    rdAddr := 0
    env := []
    events := []
    clock := 0
    draws := 0 }

end Sys2Proof.Machine
end

