-- ==== Sys2Proof/Machine/Operands.lean ====
section
/-! DEFINITION. What an operand selects: the registers of a slot or channel, the latch bits and channels a motor owns, the
stepping tables, the microstep LUT and the arithmetic of the phase (spec/10_state.md R24, R33; spec/41_dc_motor.md R180,
R181; spec/42_stepper.md R200 to R214, R230). -/

namespace Sys2Proof.Machine

/-! ### Register banks -/

/-- The value of DC motor slot `n`. -/
def getMotor {α : Type} (b : PerMotor α) : Motor → α
  | .m1 => b.m1
  | .m2 => b.m2
  | .m3 => b.m3
  | .m4 => b.m4

/-- The bank with the value of slot `n` replaced. -/
def setMotor {α : Type} (b : PerMotor α) (n : Motor) (v : α) : PerMotor α :=
  match n with
  | .m1 => { b with m1 := v }
  | .m2 => { b with m2 := v }
  | .m3 => { b with m3 := v }
  | .m4 => { b with m4 := v }

/-- The value of stepper slot `st`. -/
def getStepper {α : Type} (b : PerStepper α) : Stepper → α
  | .s1 => b.s1
  | .s2 => b.s2

/-- The bank with the value of slot `st` replaced. -/
def setStepper {α : Type} (b : PerStepper α) (st : Stepper) (v : α) : PerStepper α :=
  match st with
  | .s1 => { b with s1 := v }
  | .s2 => { b with s2 := v }

/-- The value of PWM channel `ch`. -/
def getChannel {α : Type} (b : PerChannel α) : Channel → α
  | .ch0 => b.ch0
  | .ch1 => b.ch1
  | .ch2 => b.ch2
  | .ch3 => b.ch3

/-- The bank with the value of channel `ch` replaced. -/
def setChannel {α : Type} (b : PerChannel α) (ch : Channel) (v : α) : PerChannel α :=
  match ch with
  | .ch0 => { b with ch0 := v }
  | .ch1 => { b with ch1 := v }
  | .ch2 => { b with ch2 := v }
  | .ch3 => { b with ch3 := v }

/-! ### Which slots and channels belong together -/

/-- Channel `n-1` of DC slot `n` (R180). -/
def motorChannel : Motor → Channel
  | .m1 => .ch0
  | .m2 => .ch1
  | .m3 => .ch2
  | .m4 => .ch3

/-- Stepper `(n+1) div 2`, the one that shares the resources of DC slot `n` (R182, R202). -/
def motorStepper : Motor → Stepper
  | .m1 => .s1
  | .m2 => .s1
  | .m3 => .s2
  | .m4 => .s2

/-- DC slot `2s-1`, coil 1 of stepper `s` (R202). -/
def coil1 : Stepper → Motor
  | .s1 => .m1
  | .s2 => .m3

/-- DC slot `2s`, coil 2 of stepper `s` (R202). -/
def coil2 : Stepper → Motor
  | .s1 => .m2
  | .s2 => .m4

/-- Channel `cha = 2s-2`, coil 1's magnitude (R202). -/
def chA (st : Stepper) : Channel := motorChannel (coil1 st)

/-- Channel `chb = 2s-1`, coil 2's magnitude (R202). -/
def chB (st : Stepper) : Channel := motorChannel (coil2 st)

/-! ### Latch bits (R13, R24) -/

/-- `bit(k)`: the byte with only bit `k` set (R13). -/
def bit (k : Fin 8) : Byte := 1#8 <<< k.val

/-- `bit(LATCH_BIT(n, A))` (R24). -/
def bitA (c : Params) (n : Motor) : Byte := bit (getMotor c.latchBit n).a

/-- `bit(LATCH_BIT(n, B))` (R24). -/
def bitB (c : Params) (n : Motor) : Byte := bit (getMotor c.latchBit n).b

/-- `MASK_DC(n)` (R24). -/
def maskDC (c : Params) (n : Motor) : Byte := bitA c n ||| bitB c n

/-- `MASK_ST(s) = MASK_DC(2s-1) | MASK_DC(2s)` (R202). -/
def maskST (c : Params) (st : Stepper) : Byte := maskDC c (coil1 st) ||| maskDC c (coil2 st)

/-- The read-modify-write of R80: the bits of `mask` replaced by `set`, every other bit kept. -/
def mergeBits (old mask set : Byte) : Byte := (old &&& ~~~mask) ||| set

/-- The bit pair a DC direction gives (R181). -/
def dcBits (c : Params) (n : Motor) : Direction → Byte
  | .forward => bitA c n
  | .backward => bitB c n
  | .brake => bitA c n ||| bitB c n
  | .release => 0

/-! ### Parameters with computed values (R12) -/

/-- `M`, the microsteps per full step. -/
def microsteps (c : Params) : Nat :=
  match c.resolution with
  | .eight => 8
  | .sixteen => 16

/-- `4*M`, the microsteps of one electrical revolution (R201). -/
def phases (c : Params) : Nat := 4 * microsteps c

/-- `CYC_PER_US = F_CLK / 1,000,000`. -/
def cycPerUs (c : Params) : Nat := c.fClk / 1000000

/-- `CURVE[i]` (R211). -/
def curveAt (c : Params) (i : Nat) : Byte := c.curve.getD i 0

/-! ### The stepping tables (R202 to R207) -/

/-- The coil letters of R202: coil 1 positive, coil 2 positive, coil 1 negative, coil 2 negative. -/
inductive Coil where
  | a | b | c | d
deriving DecidableEq, Repr

/-- The latch bit of a coil letter of stepper `st` (R202). -/
def coilBit (c : Params) (st : Stepper) : Coil → Byte
  | .a => bitA c (coil1 st)
  | .b => bitA c (coil2 st)
  | .c => bitB c (coil1 st)
  | .d => bitB c (coil2 st)

/-- The latch bits of a table entry. -/
def coilBits (c : Params) (st : Stepper) (entry : List Coil) : Byte :=
  entry.foldl (fun acc l => acc ||| coilBit c st l) 0

/-- `SINGLE4` (R206). -/
def single4 : List (List Coil) := [[.a], [.b], [.c], [.d]]

/-- `DOUBLE4` (R206). -/
def double4 : List (List Coil) := [[.a, .b], [.b, .c], [.c, .d], [.d, .a]]

/-- `INTERLEAVE8` (R206). -/
def interleave8 : List (List Coil) :=
  [[.a], [.a, .b], [.b], [.b, .c], [.c], [.c, .d], [.d], [.d, .a]]

/-- `stride(style)`: how far one step moves the phase (R204). -/
def stride (c : Params) : Style → Nat
  | .single => microsteps c
  | .double => microsteps c
  | .interleave => microsteps c / 2
  | .microstep => 1

/-- `idx(style, P)`: the table index a phase selects (R205). -/
def styleIndex (c : Params) (sty : Style) (p : Byte) : Nat :=
  match sty with
  | .single => p.toNat / microsteps c
  | .double => p.toNat / microsteps c
  | .interleave => p.toNat / (microsteps c / 2)
  | .microstep => p.toNat

/-- `L(style)`: the length of a style's table (R205; 90_conflicts.md C1). -/
def tableLength (c : Params) : Style → Nat
  | .single => 4
  | .double => 4
  | .interleave => 8
  | .microstep => phases c

/-! ### The output of a phase (R210, R213) -/

/-- What `Out(s, P, style)` gives: the latch bits `set` and the duties of channels `cha` and `chb`. -/
structure CoilOut where
  set : Byte
  da : Byte
  db : Byte
deriving DecidableEq, Repr

/-- A full-step entry: its bits, both bridges fully enabled (R213). -/
def fullStepOut (c : Params) (st : Stepper) (table : List (List Coil)) (i : Nat) : CoilOut :=
  ⟨coilBits c st (table.getD i []), 255, 255⟩

/-- The row of R210 for quadrant `q` and offset `r`: both coils' bits of the quadrant, coil 1 the cosine, coil 2 the sine. -/
def microstepOut (c : Params) (st : Stepper) (q r : Nat) : CoilOut :=
  let falling := curveAt c (microsteps c - r)
  let rising := curveAt c r
  let set := coilBits c st (double4.getD q [])
  if q % 2 = 0 then ⟨set, falling, rising⟩ else ⟨set, rising, falling⟩

/-- `Out(s, P, style)` (R213). -/
def phaseOut (c : Params) (st : Stepper) (p : Byte) : Style → CoilOut
  | .single => fullStepOut c st single4 (styleIndex c .single p)
  | .double => fullStepOut c st double4 (styleIndex c .double p)
  | .interleave => fullStepOut c st interleave8 (styleIndex c .interleave p)
  | .microstep => microstepOut c st (p.toNat / microsteps c) (p.toNat % microsteps c)

/-- `P'` of R214: the phase one stride on, or back, modulo `4*M`. -/
def nextPhase (c : Params) (dir : Direction) (sty : Style) (p : Byte) : Byte :=
  let w := stride c sty
  match dir with
  | .forward => BitVec.ofNat 8 ((p.toNat + w) % phases c)
  | .backward => BitVec.ofNat 8 ((p.toNat + phases c - w) % phases c)
  | .brake => BitVec.ofNat 8 ((p.toNat + phases c - w) % phases c)
  | .release => BitVec.ofNat 8 ((p.toNat + phases c - w) % phases c)

/-! ### Speeds and waits (R219, R230) -/

/-- `prod = revsteps * rpm`, exact (R219). -/
def speedProduct (rs rpm : Half) : Nat := rs.toNat * rpm.toNat

/-- `60000000 div prod` (R219). -/
def usPerStep (rs rpm : Half) : Word := BitVec.ofNat 32 (60000000 / speedProduct rs rpm)

/-- `spacing(style, usperstep)`: the whole microseconds a STEP waits after each step (R230). -/
def spacing (c : Params) (sty : Style) (us : Word) : Word :=
  match sty with
  | .single => us
  | .double => us
  | .interleave => us
  | .microstep => BitVec.ofNat 32 (us.toNat / microsteps c)

end Sys2Proof.Machine
end

