-- ==== Sys2Proof/Machine/Flags.lean ====
section
/-! DEFINITION. The flags of the block and what they gate (spec/10_state.md R28 to R33, R42; spec/60_exceptions.md R262 to
R272): readiness of the command port, the state checks of each command in their order, derived ownership, the byte of a
fault code, and the status bytes the register-read space shows. -/

namespace Sys2Proof.Machine

/-- `cmd_ready = (not busy) and (not fault) and (seq_state = IDLE)` (R38). -/
def cmdReady (s : State) : Bool := !s.busy && !s.fault && decide (s.seqState = .idle)

/-- The host's command is accepted at the next edge (R38). -/
def accepts (s : State) : Bool := s.cmdValid && cmdReady s

/-- The byte `fault_code` holds (R263). -/
def faultByte : FaultCode → Byte
  | .none => 0x00
  | .illegalOpcode => 0x01
  | .reservedField => 0x02
  | .badIndex => 0x03
  | .badDirection => 0x04
  | .badStyle => 0x05
  | .notEnabled => 0x06
  | .notInitialized => 0x07
  | .resourceConflict => 0x08
  | .speedZero => 0x09
  | .speedUnset => 0x0A

/-- The fault code of a decode fault (R264). -/
def decodeFaultCode : DecodeFault → FaultCode
  | .illegalOpcode => .illegalOpcode
  | .reservedField => .reservedField
  | .badIndex => .badIndex
  | .badDirection => .badDirection
  | .badStyle => .badStyle

/-- The check `enabled = 1, else NOT_ENABLED` before a plan (R265). -/
def needEnabled (s : State) (p : Plan) : Plan :=
  if s.enabled then p else .raise .notEnabled

/-- The check `dc_init[n] = 1, else NOT_INITIALIZED` before a plan (R266). -/
def needMotor (s : State) (n : Motor) (p : Plan) : Plan :=
  if getMotor s.dcInit n then p else .raise .notInitialized

/-- The check `st_init[st] = 1, else NOT_INITIALIZED` before a plan (R266). -/
def needStepper (s : State) (st : Stepper) (p : Plan) : Plan :=
  if getStepper s.stInit st then p else .raise .notInitialized

/-- DC slot `n` is free: neither it nor the stepper that shares its bits is constructed (R267). -/
def motorFree (s : State) (n : Motor) : Bool :=
  !getMotor s.dcInit n && !getStepper s.stInit (motorStepper n)

/-- Stepper slot `st` is free: neither it nor either of its two DC slots is constructed (R267). -/
def stepperFree (s : State) (st : Stepper) : Bool :=
  !getStepper s.stInit st && !getMotor s.dcInit (coil1 st) && !getMotor s.dcInit (coil2 st)

/-- The check that a slot is free, else RESOURCE_CONFLICT, before a plan (R267). -/
def needFree (free : Bool) (p : Plan) : Plan :=
  if free then p else .raise .resourceConflict

/-- The check `revsteps[s] * rpm != 0`, else SPEED_ZERO, before a plan (R268). -/
def needSpeed (prod : Nat) (p : Plan) : Plan :=
  if prod = 0 then .raise .speedZero else p

/-- The check `speed_set[st] = 1, else SPEED_UNSET` before a plan (R269). -/
def needSpeedSet (s : State) (st : Stepper) (p : Plan) : Plan :=
  if getStepper s.speedSet st then p else .raise .speedUnset

/-- The decode check of a stepper's direction (R104), kept in the meaning too so that the ill-formed terms of `Instr` end
where the words they would stand for end (R111): BAD_DIRECTION, before every state check. -/
def needStepDir (dir : Direction) (p : Plan) : Plan :=
  if dir.steps then p else .raise .badDirection

/-! ### Ownership, derived and never stored (R33) -/

/-- A slot that can own latch bits and channels. -/
inductive Owner where
  | motor (n : Motor)
  | stepper (st : Stepper)
deriving DecidableEq, Repr

/-- The slot is constructed. -/
def constructed (s : State) : Owner → Bool
  | .motor n => getMotor s.dcInit n
  | .stepper st => getStepper s.stInit st

/-- The latch bits a slot owns while it is constructed (R33). -/
def ownerMask (c : Params) : Owner → Byte
  | .motor n => maskDC c n
  | .stepper st => maskST c st

/-- The PWM channels a slot owns while it is constructed (R33). -/
def ownsChannel (o : Owner) (ch : Channel) : Bool :=
  match o with
  | .motor n => decide (motorChannel n = ch)
  | .stepper st => decide (chA st = ch) || decide (chB st = ch)

/-! ### Status bytes of the register-read space -/

/-- A bit of a status byte at position `k`. -/
def flagBit (k : Nat) (b : Bool) : Byte := if b then 1#8 <<< k else 0#8

/-- STATUS (R45). -/
def statusByte (s : State) : Byte :=
  flagBit 0 s.enabled ||| flagBit 1 s.busy ||| flagBit 2 s.fault

/-- INIT_FLAGS (R48). -/
def initFlagsByte (s : State) : Byte :=
  flagBit 0 s.dcInit.m1 ||| flagBit 1 s.dcInit.m2 ||| flagBit 2 s.dcInit.m3 ||| flagBit 3 s.dcInit.m4 |||
    flagBit 4 s.stInit.s1 ||| flagBit 5 s.stInit.s2

/-- SFLAGS of a stepper slot (R53). -/
def sflagsByte (s : State) (st : Stepper) : Byte := flagBit 0 (getStepper s.speedSet st)

/-- CONFIG_M (R51). -/
def configMByte (c : Params) : Byte := BitVec.ofNat 8 (microsteps c)

/-- CONFIG_PWM (R51). -/
def configPwmByte (c : Params) : Byte :=
  flagBit 0 c.pwmPresent.ch0 ||| flagBit 1 c.pwmPresent.ch1 ||| flagBit 2 c.pwmPresent.ch2 |||
    flagBit 3 c.pwmPresent.ch3

end Sys2Proof.Machine
end

