-- ==== Sys2Proof/Machine/Ops.lean ====
section
/-! DEFINITION. The named operations every command shares: applying updates, raising a fault and leaving it by reset, the
serializer pins and the external register, a whole transfer with its commit, a step with its wait, and `perform`, which
carries out a command's plan as ONE transaction (spec/00_scope.md R9, R14; spec/40_latch_pwm.md R145 to R149;
spec/60_exceptions.md R262, R274, R275; spec/70_reset_and_hazards.md R300 to R302, R320). -/

namespace Sys2Proof.Machine

/-! ### Updates -/

/-- The end of a wait: the sequencer is idle, and `busy` stays 1 exactly while steps of the STEP remain (R221, R232). -/
def endWait (s : State) : State :=
  { s with seqState := .idle, busy := decide (s.stepsRemaining ≠ 0) }

/-- The wait of `spacing` microseconds a STEP's commit starts; a wait of 0 ends at the commit itself (R232). -/
def startWait (spacing : Word) (s : State) : State :=
  let s' := { s with stepsRemaining := s.stepsRemaining - 1, usRemaining := spacing, prescale := 0 }
  if spacing = 0 then endWait s' else { s' with seqState := .wait }

/-- One update (R14). -/
def applyUpdate (u : Update) (s : State) : State :=
  match u with
  | .latchState v => { s with latchState := v }
  | .duty ch v => { s with duty := setChannel s.duty ch v }
  | .dcInit n => { s with dcInit := setMotor s.dcInit n true }
  | .stInit st => { s with stInit := setStepper s.stInit st true }
  | .revsteps st v => { s with revsteps := setStepper s.revsteps st v }
  | .usperstep st v => { s with usperstep := setStepper s.usperstep st v }
  | .speedSet st b => { s with speedSet := setStepper s.speedSet st b }
  | .currentstep st p => { s with currentstep := setStepper s.currentstep st p }
  | .result p => { s with result := p }
  | .busyClear => { s with busy := false }
  | .stepWait spacing => startWait spacing s

/-- A list of updates that take effect at one edge. -/
def applyAll : List Update → State → State
  | [], s => s
  | u :: us, s => applyAll us (applyUpdate u s)

/-! ### Taking a fault and leaving it -/

/-- `raise Fault(code)` for the word on the command port (R262): three registers are written and nothing else. The block
is then stuck: `cmdReady` is false until reset. -/
def raiseFault (code : FaultCode) (s : State) : State :=
  { s with fault := true, faultCode := code, faultCmd := s.cmdWord }

/-- One rising edge with `rst = 1` (R300, R301): every piece of the block's state takes its reset value. The
configuration, the external register (`sr`, `out_q`) and the host's inputs are not the block's state; no pin has a rising
edge here (R302). This is the only way out of a fault (R275). -/
def resetEdge (s : State) : State :=
  { State.reset with
    cfg := s.cfg
    sr := s.sr
    outQ := s.outQ
    stepCtx := Config.freeStepCtx s.draws
    draws := s.draws + 1
    cmdValid := s.cmdValid
    cmdWord := s.cmdWord
    rdAddr := s.rdAddr
    env := s.env
    events := s.events
    clock := s.clock + 1 }

/-! ### The serializer pins and the external register -/

/-- `sr <- {sr[6:0], SER}` (R39). -/
def shiftIn (sr : Byte) (ser : Bool) : Byte := BitVec.concat (sr.setWidth 7) ser

/-- The three serializer pins take new levels, and the external register reacts to rising edges only (R39): `SRCLK` shifts
`sr`, `RCLK` copies `sr` to `out_q`. -/
def drivePins (ser srclk rclk : Bool) (s : State) : State :=
  { s with
    ser := ser
    srclk := srclk
    rclk := rclk
    sr := if !s.srclk && srclk then shiftIn s.sr ser else s.sr
    outQ := if !s.rclk && rclk then s.sr else s.outQ }

/-- Edge `T+0` of `Transfer(v)` (R145). -/
def startTransfer (v : Byte) (ups : List Update) (s : State) : State :=
  { drivePins false s.srclk false s with
    seqState := .xfer, xferCycle := 0, xferValue := v, pending := ups }

/-- What the commit's output event is tagged with: the wait that begins, if one does (R17). -/
def eventWait (s : State) : Word :=
  match s.seqState with
  | .wait => s.usRemaining
  | .idle => 0
  | .xfer => 0
  | .div => 0

/-- Edge `T+17`, the commit (R145, R147): `RCLK` rises, so the external register shows its shifted byte, and every pending
update takes effect together. -/
def commitEdge (s : State) : State :=
  let s' := applyAll s.pending
    { drivePins s.ser s.srclk true s with seqState := .idle, xferCycle := 0, pending := [] }
  { s' with events := ⟨s'.outQ, s'.duty, eventWait s'⟩ :: s'.events }

/-- The state after edges `T` to `T+16` of `Transfer(v)`, all at once: the eight bits are in `sr` whatever it held, the
pins are as the sixteenth edge left them, and `out_q` is untouched (R145, R146, R149). -/
def shiftedOut (v : Byte) (ups : List Update) (s : State) : State :=
  { s with
    ser := v.getLsbD 0
    srclk := true
    rclk := false
    sr := v
    seqState := .xfer
    xferCycle := 16
    xferValue := v
    pending := ups }

/-- A whole transfer with its commit: 18 edges, `T` to `T+17` (R145, R147). -/
def transact (v : Byte) (ups : List Update) (s : State) : State :=
  let s' := commitEdge (shiftedOut v ups s)
  { s' with clock := s.clock + 18 }

/-- ENABLE's edge `E0+18`, after its commit: the outputs are driven from here on (R150). -/
def enableEdge (s : State) : State := { s with oeN := false, enabled := true, busy := false }

/-- The end of a division: its updates, and the port is free again (R219). -/
def finishDivide (ups : List Update) (s : State) : State :=
  { applyAll ups s with busy := false, seqState := .idle, divCount := 0, pending := [] }

/-! ### One step of a stepper (R214, R221) -/

/-- `new` of R214: the byte StepOnce sends. -/
def stepByte (s : State) (st : Stepper) (dir : Direction) (sty : Style) : Byte :=
  let p := nextPhase s.cfg dir sty (getStepper s.currentstep st)
  mergeBits s.latchState (maskST s.cfg st) (phaseOut s.cfg st p sty).set

/-- The `Commit` list of StepOnce (R214). -/
def stepUpdates (s : State) (st : Stepper) (dir : Direction) (sty : Style) : List Update :=
  let p := nextPhase s.cfg dir sty (getStepper s.currentstep st)
  let out := phaseOut s.cfg st p sty
  [.latchState (stepByte s st dir sty), .duty (chA st) out.da, .duty (chB st) out.db,
    .currentstep st p, .result p]

/-- The `Commit` list of one step of the running STEP: StepOnce's and the start of the wait (R221). -/
def runningUpdates (s : State) : List Update :=
  stepUpdates s s.stepCtx.stepper s.stepCtx.dir s.stepCtx.style ++ [.stepWait s.stepCtx.spacing]

/-- The byte the next step of the running STEP sends. -/
def runningByte (s : State) : Byte := stepByte s s.stepCtx.stepper s.stepCtx.dir s.stepCtx.style

/-- Clock edges of the wait in progress, from its start (R232). -/
def waitCycles (s : State) : Nat :=
  match s.seqState with
  | .wait => s.usRemaining.toNat * cycPerUs s.cfg
  | .idle => 0
  | .xfer => 0
  | .div => 0

/-- The whole wait a commit has just started (R232). -/
def finishWait (s : State) : State :=
  match s.seqState with
  | .wait => { endWait { s with usRemaining := 0, prescale := 0 } with clock := s.clock + waitCycles s }
  | .idle => s
  | .xfer => s
  | .div => s

/-- One StepOnce of the running STEP with the wait that follows it: one transaction (R221, R233; 70 R321). -/
def stepMove (s : State) : State := finishWait (transact (runningByte s) (runningUpdates s) s)

/-- A STEP is at the boundary between two of its steps: the next edge starts a transfer. -/
def atStepBoundary (s : State) : Bool :=
  s.busy && decide (s.seqState = .idle) && decide (s.stepsRemaining ≠ 0)

/-! ### A command as one transaction -/

/-- Carries out a command's plan from its accepting edge `E0` to the state its last edge leaves, with the durations of
R320. Of a STEP it carries out the first step and its wait; `stepMove` carries out each further one (R9, R321). -/
def perform (p : Plan) (s : State) : State :=
  match p with
  | .raise code => { raiseFault code s with clock := s.clock + 1 }
  | .instant ups => { applyAll ups s with clock := s.clock + 1 }
  | .transfer v ups => transact v ups { s with busy := true }
  | .enable =>
    { enableEdge (transact 0 [.latchState 0] { s with busy := true }) with clock := s.clock + 19 }
  | .divide ups => { finishDivide ups s with clock := s.clock + max 1 s.cfg.lDiv }
  | .steps ctx n => stepMove { s with stepCtx := ctx, stepsRemaining := n, busy := true }

end Sys2Proof.Machine
end

