-- ==== Sys2Proof/Machine/DcMotor.lean ====
section
/-! DEFINITION. DC_INIT, DC_RUN and DC_SPEED (spec/41_dc_motor.md R180 to R185). -/

namespace Sys2Proof.Machine

/-- DC_INIT (R182): the slot starts released, duty 0. -/
def planDcInit (n : Motor) (s : State) : Plan :=
  needEnabled s <| needFree (motorFree s n) <|
    let new := mergeBits s.latchState (maskDC s.cfg n) 0
    .transfer new [.latchState new, .duty (motorChannel n) 0, .dcInit n, .busyClear]

/-- DC_INIT as one transaction. -/
def execDcInit (n : Motor) (s : State) : Host.Outcome State Fault Refusal :=
  .next (perform (planDcInit n s) s)

/-- The duty update of a direction: RELEASE forces the channel off, the others leave it (R181). -/
def dcDutyUpdates (n : Motor) : Direction → List Update
  | .forward => []
  | .backward => []
  | .brake => []
  | .release => [.duty (motorChannel n) 0]

/-- DC_RUN (R183). -/
def planDcRun (n : Motor) (dir : Direction) (s : State) : Plan :=
  needEnabled s <| needMotor s n <|
    let new := mergeBits s.latchState (maskDC s.cfg n) (dcBits s.cfg n dir)
    .transfer new ([.latchState new] ++ dcDutyUpdates n dir ++ [.busyClear])

/-- DC_RUN as one transaction. -/
def execDcRun (n : Motor) (dir : Direction) (s : State) : Host.Outcome State Fault Refusal :=
  .next (perform (planDcRun n dir s) s)

/-- DC_SPEED (R184): `enabled` is not checked, since no latch write happens. -/
def planDcSpeed (n : Motor) (v : Byte) (s : State) : Plan :=
  needMotor s n (.instant [.duty (motorChannel n) v])

/-- DC_SPEED as one transaction. -/
def execDcSpeed (n : Motor) (v : Byte) (s : State) : Host.Outcome State Fault Refusal :=
  .next (perform (planDcSpeed n v s) s)

end Sys2Proof.Machine
end

