-- ==== Sys2Proof/Machine/Latch.lean ====
section
/-! DEFINITION. ENABLE, WRITE_LATCH and SET_DUTY (spec/40_latch_pwm.md R150 to R152). Each command is a plan, transcribed
from its rule's pseudocode, and a meaning that carries the plan out as one transaction. -/

namespace Sys2Proof.Machine

/-- ENABLE (R150): no check beyond decoding. -/
def planEnable : Plan := .enable

/-- ENABLE as one transaction. -/
def execEnable (s : State) : Host.Outcome State Fault Refusal := .next (perform planEnable s)

/-- WRITE_LATCH (R151): a full-byte replace, with no ownership check. -/
def planWriteLatch (v : Byte) (s : State) : Plan :=
  needEnabled s (.transfer v [.latchState v, .busyClear])

/-- WRITE_LATCH as one transaction. -/
def execWriteLatch (v : Byte) (s : State) : Host.Outcome State Fault Refusal :=
  .next (perform (planWriteLatch v s) s)

/-- SET_DUTY (R152): one duty register, at the accepting edge. -/
def planSetDuty (ch : Channel) (v : Byte) : Plan := .instant [.duty ch v]

/-- SET_DUTY as one transaction. -/
def execSetDuty (ch : Channel) (v : Byte) (s : State) : Host.Outcome State Fault Refusal :=
  .next (perform (planSetDuty ch v) s)

end Sys2Proof.Machine
end

