-- ==== Sys2Proof/Machine/StepperMotor.lean ====
section
/-! DEFINITION. STEPPER_INIT, STEPPER_SPEED, ONESTEP, STEP and RELEASE (spec/42_stepper.md R218 to R222). -/

namespace Sys2Proof.Machine

/-- STEPPER_INIT (R218): released, phase 0, no speed. -/
def planStepperInit (st : Stepper) (rs : Half) (s : State) : Plan :=
  needEnabled s <| needFree (stepperFree s st) <|
    let new := mergeBits s.latchState (maskST s.cfg st) 0
    .transfer new [.latchState new, .duty (chA st) 0, .duty (chB st) 0, .stInit st, .revsteps st rs,
      .usperstep st 0, .speedSet st false, .currentstep st 0, .busyClear]

/-- STEPPER_INIT as one transaction. -/
def execStepperInit (st : Stepper) (rs : Half) (s : State) : Host.Outcome State Fault Refusal :=
  .next (perform (planStepperInit st rs s) s)

/-- STEPPER_SPEED (R219): `enabled` is not checked, since no latch write happens. -/
def planStepperSpeed (st : Stepper) (rpm : Half) (s : State) : Plan :=
  needStepper s st <| needSpeed (speedProduct (getStepper s.revsteps st) rpm) <|
    .divide [.usperstep st (usPerStep (getStepper s.revsteps st) rpm), .speedSet st true]

/-- STEPPER_SPEED as one transaction. -/
def execStepperSpeed (st : Stepper) (rpm : Half) (s : State) : Host.Outcome State Fault Refusal :=
  .next (perform (planStepperSpeed st rpm s) s)

/-- ONESTEP (R220): one StepOnce, no wait, `speed_set` not checked. -/
def planOnestep (st : Stepper) (dir : Direction) (sty : Style) (s : State) : Plan :=
  needStepDir dir <| needEnabled s <| needStepper s st <|
    .transfer (stepByte s st dir sty) (stepUpdates s st dir sty ++ [.busyClear])

/-- ONESTEP as one transaction. -/
def execOnestep (st : Stepper) (dir : Direction) (sty : Style) (s : State) :
    Host.Outcome State Fault Refusal :=
  .next (perform (planOnestep st dir sty s) s)

/-- STEP (R221): every check is made whatever `n` is; with `n = 0` nothing is written (R235). `usperstep` is read here,
once (R337). -/
def planStep (st : Stepper) (n : Half) (dir : Direction) (sty : Style) (s : State) : Plan :=
  needStepDir dir <| needEnabled s <| needStepper s st <| needSpeedSet s st <|
    if n = 0 then .instant []
    else .steps ⟨st, dir, sty, spacing s.cfg sty (getStepper s.usperstep st)⟩ n

/-- STEP's first transaction: acceptance and, when `n > 0`, the first StepOnce with its wait. The further `n - 1` steps
are transactions of their own, made by `step` while `busy` stays 1 (R9, R321). -/
def execStep (st : Stepper) (n : Half) (dir : Direction) (sty : Style) (s : State) :
    Host.Outcome State Fault Refusal :=
  .next (perform (planStep st n dir sty s) s)

/-- RELEASE (R222): bits and duties 0, the phase and every other register kept. -/
def planRelease (st : Stepper) (s : State) : Plan :=
  needEnabled s <| needStepper s st <|
    let new := mergeBits s.latchState (maskST s.cfg st) 0
    .transfer new [.latchState new, .duty (chA st) 0, .duty (chB st) 0, .busyClear]

/-- RELEASE as one transaction. -/
def execRelease (st : Stepper) (s : State) : Host.Outcome State Fault Refusal :=
  .next (perform (planRelease st s) s)

end Sys2Proof.Machine
end

