-- ==== Sys2Proof/Machine/Clock.lean ====
section
/-! DEFINITION. The cycle-level machine: ONE rising edge of `clk` (spec/40_latch_pwm.md R145, R150; spec/42_stepper.md
R219, R221, R232; spec/70_reset_and_hazards.md R320). It refines the transactions of `perform`: both carry out the same
plans, and 00_scope.md R9 says the cycle-level rules refine the transaction level. -/

namespace Sys2Proof.Machine

/-- The plan of a command in a state. -/
def planOf (i : Instr) (s : State) : Plan :=
  match i with
  | .enable => planEnable
  | .writeLatch v => planWriteLatch v s
  | .setDuty ch v => planSetDuty ch v
  | .dcInit n => planDcInit n s
  | .dcRun n dir => planDcRun n dir s
  | .dcSpeed n v => planDcSpeed n v s
  | .stepperInit st rs => planStepperInit st rs s
  | .stepperSpeed st rpm => planStepperSpeed st rpm s
  | .onestep st dir sty => planOnestep st dir sty s
  | .step st n dir sty => planStep st n dir sty s
  | .release st => planRelease st s

/-- The plan of a word on the command port: a word that does not decode raises its decode fault (R111, R264). -/
def planWord (w : Word) (s : State) : Plan :=
  match decodeWord w with
  | .ok i => planOf i s
  | .error why => .raise (decodeFaultCode why)

/-- The accepting edge `E0` of a plan (R320). -/
def startPlan (p : Plan) (s : State) : State :=
  match p with
  | .raise code => raiseFault code s
  | .instant ups => applyAll ups s
  | .transfer v ups => startTransfer v ups { s with busy := true }
  | .enable => startTransfer 0 [.latchState 0] { s with busy := true }
  | .divide ups =>
    if s.cfg.lDiv ≤ 1 then finishDivide ups s
    else { s with busy := true, seqState := .div, divCount := s.cfg.lDiv - 1, pending := ups }
  | .steps ctx n =>
    let s' := { s with stepCtx := ctx, stepsRemaining := n, busy := true }
    startTransfer (runningByte s') (runningUpdates s') s'

/-- The next edge of the transfer in progress: edges `T+1` to `T+17` of R145. -/
def xferEdge (s : State) : State :=
  let k := s.xferCycle + 1
  if 17 ≤ k then commitEdge s
  else if k % 2 = 1 then
    { drivePins (s.xferValue.getLsbD (7 - (k - 1) / 2)) false s.rclk s with xferCycle := k }
  else { drivePins s.ser true s.rclk s with xferCycle := k }

/-- One edge of a wait (R232). -/
def waitEdge (s : State) : State :=
  if s.prescale = cycPerUs s.cfg - 1 then
    if s.usRemaining ≤ 1 then endWait { s with usRemaining := 0, prescale := 0 }
    else { s with usRemaining := s.usRemaining - 1, prescale := 0 }
  else { s with prescale := s.prescale + 1 }

/-- One edge of a division (R219). -/
def divEdge (s : State) : State :=
  if s.divCount ≤ 1 then finishDivide s.pending s else { s with divCount := s.divCount - 1 }

/-- One edge of an idle sequencer: it starts the next step of a running STEP (R221), makes ENABLE's last edge (the only
other command that is busy with an idle sequencer, R150; log entry 8), or does nothing. -/
def idleEdge (s : State) : State :=
  if s.busy then
    if s.stepsRemaining ≠ 0 then startTransfer (runningByte s) (runningUpdates s) s else enableEdge s
  else s

/-- One edge of the sequencer, at which no command is accepted. -/
def sequencerEdge (s : State) : State :=
  match s.seqState with
  | .idle => idleEdge s
  | .xfer => xferEdge s
  | .wait => waitEdge s
  | .div => divEdge s

/-- One rising edge of `clk` with `rst = 0`: a presented command is accepted if the port is ready (R38), otherwise the
sequencer goes on. A command presented while the port is not ready has no effect and stays presented. -/
def clockEdge (s : State) : State :=
  let s0 := { s with cmdValid := false }
  let s' := if accepts s then startPlan (planWord s.cmdWord s0) s0 else sequencerEdge s
  { s' with clock := s.clock + 1 }

/-- `n` rising edges. -/
def clockEdges : Nat → State → State
  | 0, s => s
  | n + 1, s => clockEdges n (clockEdge s)

/-- The clock edges from `E0` to the last edge of a plan's transaction (R320); of a STEP, of its first step (R233). -/
def planCycles (p : Plan) (s : State) : Nat :=
  match p with
  | .raise _ => 1
  | .instant _ => 1
  | .transfer _ _ => 18
  | .enable => 19
  | .divide _ => max 1 s.cfg.lDiv
  | .steps ctx _ => 18 + ctx.spacing.toNat * cycPerUs s.cfg

/-- The duration of a plan's whole command, from `E0` to the earliest edge that can accept the next one (R320); of a STEP,
of all its steps and waits (R234). -/
def durationCycles (p : Plan) (s : State) : Nat :=
  match p with
  | .raise _ => 1
  | .instant _ => 1
  | .transfer _ _ => 18
  | .enable => 19
  | .divide _ => max 1 s.cfg.lDiv
  | .steps ctx n => n.toNat * (18 + ctx.spacing.toNat * cycPerUs s.cfg)

end Sys2Proof.Machine
end

