-- ==== Sys2Proof/Machine/Dispatch.lean ====
section
/-! DEFINITION. The meaning of every command, one arm per constructor of `Instr`. `exec i s` is the transaction of command
`i` accepted in `s`, the state at its accepting edge, whose `cmdWord` is the command's word (R14, R262). -/

namespace Sys2Proof.Machine

def exec (i : Instr) (s : State) : Host.Outcome State Fault Refusal :=
  match i with
  | .enable => Sys2Proof.Machine.execEnable s
  | .writeLatch v => Sys2Proof.Machine.execWriteLatch v s
  | .setDuty ch v => Sys2Proof.Machine.execSetDuty ch v s
  | .dcInit n => Sys2Proof.Machine.execDcInit n s
  | .dcRun n dir => Sys2Proof.Machine.execDcRun n dir s
  | .dcSpeed n v => Sys2Proof.Machine.execDcSpeed n v s
  | .stepperInit st rs => Sys2Proof.Machine.execStepperInit st rs s
  | .stepperSpeed st rpm => Sys2Proof.Machine.execStepperSpeed st rpm s
  | .onestep st dir sty => Sys2Proof.Machine.execOnestep st dir sty s
  | .step st n dir sty => Sys2Proof.Machine.execStep st n dir sty s
  | .release st => Sys2Proof.Machine.execRelease st s

end Sys2Proof.Machine
end

