-- ==== Sys2Proof/Machine/Outputs.lean ====
section
/-! DEFINITION. The PWM generators and what the outside sees: the PWM pins, the driven latch byte and the drive of a
stepper's coils (spec/10_state.md R39 to R41; spec/40_latch_pwm.md R160 to R164; spec/42_stepper.md R203, R244). -/

namespace Sys2Proof.Machine

/-! ### PWM generators (R160) -/

/-- The group of a channel, `ch div 2` (R26). -/
def channelGroup : Channel → Group
  | .ch0 => .g0
  | .ch1 => .g0
  | .ch2 => .g1
  | .ch3 => .g1

/-- The tick frequency of a group, `255 * GROUP_FREQ[g]` (R160). No operation changes it (R164). -/
def tickFrequency (g : Group) : Nat := 255 * Config.groupFreq g

/-- One tick of one channel's counter: it counts 0 to 254. -/
def nextCount (cnt : Nat) : Nat := if cnt = 254 then 0 else cnt + 1

/-- One tick of one channel's active duty: loaded from the duty register when the counter wraps. -/
def nextActive (cnt : Nat) (active duty : Byte) : Byte := if cnt = 254 then duty else active

/-- One tick of the generators of group `g`: its two channels tick together, the other group's do not (R160). -/
def pwmTick (g : Group) (s : State) : State :=
  let cnt := fun (ch : Channel) =>
    if channelGroup ch = g then nextCount (getChannel s.pwmCnt ch) else getChannel s.pwmCnt ch
  let active := fun (ch : Channel) =>
    if channelGroup ch = g then
      nextActive (getChannel s.pwmCnt ch) (getChannel s.pwmActive ch) (getChannel s.duty ch)
    else getChannel s.pwmActive ch
  { s with
    pwmCnt := ⟨cnt .ch0, cnt .ch1, cnt .ch2, cnt .ch3⟩
    pwmActive := ⟨active .ch0, active .ch1, active .ch2, active .ch3⟩ }

/-- `FALLBACK_ON`: off at duty 0, on at duty 255, open between (R162). -/
def fallbackOn (d : Byte) : Bool :=
  if d = 0 then false else if d = 255 then true else Config.fallbackOpen d

/-- Pin `PWM[ch]` (R161, R162). -/
def pwmPin (s : State) (ch : Channel) : Bool :=
  if getChannel s.cfg.pwmPresent ch then
    decide (getChannel s.pwmCnt ch < (getChannel s.pwmActive ch).toNat)
  else fallbackOn (getChannel s.duty ch)

/-! ### The driven latch byte (R40) -/

/-- `drv`: the byte the motor-driver inputs see, or nothing driven while `OE_n = 1`. -/
def drv (s : State) : Option Byte := if s.oeN then none else some s.outQ

/-- The level of one motor-driver input: an input that is not driven is inactive (R23, R40). -/
def driverInput (s : State) (k : Fin 8) : Bool :=
  match drv s with
  | some v => v.getLsbD k.val
  | none => false

/-! ### The drive of a coil (R203, R244) -/

/-- How a coil is driven. -/
inductive Polarity where
  | off | positive | negative
  /-- Both bits set. The stepper sequencer never sets both bits of one coil (R203); a raw WRITE_LATCH or a DC BRAKE can. -/
  | both
deriving DecidableEq, Repr

/-- The polarity a latch byte gives the coil on DC slot `n`: side A is its positive bit, side B its negative (R202, R203). -/
def coilPolarity (c : Params) (latch : Byte) (n : Motor) : Polarity :=
  match latch.getLsbD (getMotor c.latchBit n).a.val, latch.getLsbD (getMotor c.latchBit n).b.val with
  | false, false => .off
  | true, false => .positive
  | false, true => .negative
  | true, true => .both

/-- The effective drive of a coil: its polarity when its duty is above 0, and off otherwise (R244). -/
def effectiveDrive (c : Params) (latch duty : Byte) (n : Motor) : Polarity :=
  if duty = 0 then .off else coilPolarity c latch n

end Sys2Proof.Machine
end

