-- ==== Sys2Proof/Machine/Port.lean ====
section
/-! DEFINITION. The command port and the moves of the agents around the sequencer (spec/10_state.md R38;
spec/60_exceptions.md R273, R285, R286; spec/20_memory.md R84, R92). -/

namespace Sys2Proof.Machine

/-- The port accepts the presented word: the word is no longer presented, and its command runs as one transaction. A
word that does not decode raises its decode fault (R111, R262). -/
def acceptCommand (s : State) : Host.Outcome State Fault Refusal :=
  match decodeWord s.cmdWord with
  | .ok i => exec i { s with cmdValid := false }
  | .error why => .next (perform (.raise (decodeFaultCode why)) { s with cmdValid := false })

/-- The sequencer's move when no other agent moves first: it accepts a presented command when it is ready, makes the next
step of a running STEP, or advances one clock edge (R9, R321). A block that is stuck in a fault accepts nothing and only
lets its clock pass (R262). -/
def sequencerMove (s : State) : Host.Outcome State Fault Refusal :=
  if accepts s then acceptCommand s
  else if atStepBoundary s then .next (stepMove s)
  else .next (clockEdge s)

/-- One move of the machine: the first waiting move of another agent if there is one, otherwise the sequencer's. A host
presents one word at a time, so a second word waits until the first has been accepted (R38, 93 U22). Reset wins over
everything (R273). -/
def moveOnce (s : State) : Host.Outcome State Fault Refusal :=
  match s.env with
  | [] => sequencerMove s
  | .reset :: rest => .next (resetEdge { s with env := rest })
  | .clock :: rest => .next (clockEdge { s with env := rest })
  | .tick g :: rest => .next (pwmTick g { s with env := rest })
  | .readAddr a :: rest => .next { s with env := rest, rdAddr := a }
  | .present w :: rest =>
    if s.cmdValid then sequencerMove s
    else .next { s with env := rest, cmdValid := true, cmdWord := w }

/-- `s` with a word on the command port and no move of another agent before it. -/
def presentWord (w : Word) (s : State) : State := { s with env := [], cmdValid := true, cmdWord := w }

end Sys2Proof.Machine
end

