-- ==== Sys2Proof/Machine/Step.lean ====
section
/-! DEFINITION. One step of the machine. The block fetches nothing (spec/10_state.md R21): a program is the sequence of
words the host presents, so the "next instruction" is the word on the command port. -/

namespace Sys2Proof.Machine

/-- One step. -/
def step (s : State) : Host.Outcome State Fault Refusal := moveOnce s

/-- `s` with the command of `nbits` table bits `w` presented on the command port (log entry 10), so that the next step
accepts it if the port is ready. -/
def State.withFetchWord (s : State) (nbits w : Nat) : State :=
  presentWord (BitVec.ofNat 32 (w % 2 ^ nbits)) s

end Sys2Proof.Machine
end

