-- ==== Sys2Proof/Machine/Registers.lean ====
section
/-! DEFINITION. The register-read space: 256 read-only byte addresses computed from the state, with no side effect
(spec/10_state.md R45 to R54; spec/20_memory.md R70 to R78, R83). This is the only address space of the block; it has no
memory, so the model has no list of memory cells. -/

namespace Sys2Proof.Machine

/-- Byte `i` of a 32-bit register, the least significant first (R75). -/
def wordByte (w : Word) (i : Nat) : Byte := w.extractLsb' (8 * i) 8

/-- Byte `i` of a 16-bit register, the least significant first (R75). -/
def halfByte (h : Half) (i : Nat) : Byte := h.extractLsb' (8 * i) 8

/-- Addresses 0x00 to 0x0F: the global registers (R45 to R51). -/
def globalRegs (s : State) : List Byte :=
  [statusByte s, faultByte s.faultCode, s.latchState, initFlagsByte s,
    s.duty.ch0, s.duty.ch1, s.duty.ch2, s.duty.ch3,
    wordByte s.faultCmd 0, wordByte s.faultCmd 1, wordByte s.faultCmd 2, wordByte s.faultCmd 3,
    s.result, configMByte s.cfg, configPwmByte s.cfg, 0]

/-- Addresses 0x10 to 0x1F: the sequencer registers (R52). -/
def sequencerRegs (s : State) : List Byte :=
  [halfByte s.stepsRemaining 0, halfByte s.stepsRemaining 1, 0, 0,
    wordByte s.usRemaining 0, wordByte s.usRemaining 1, wordByte s.usRemaining 2, wordByte s.usRemaining 3,
    0, 0, 0, 0, 0, 0, 0, 0]

/-- The 16 addresses from the base of a stepper slot's block (R53). -/
def stepperRegs (s : State) (st : Stepper) : List Byte :=
  let rs := getStepper s.revsteps st
  let us := getStepper s.usperstep st
  [getStepper s.currentstep st, sflagsByte s st, halfByte rs 0, halfByte rs 1,
    wordByte us 0, wordByte us 1, wordByte us 2, wordByte us 3,
    0, 0, 0, 0, 0, 0, 0, 0]

/-- Addresses 0x00 to 0x3F; the rest of the space is reserved (R54, R83). -/
def registerMap (s : State) : List Byte :=
  globalRegs s ++ sequencerRegs s ++ stepperRegs s .s1 ++ stepperRegs s .s2

/-- The byte at a register-read address: reserved addresses read 0 (R54). -/
def readReg (s : State) (addr : Byte) : Byte := (registerMap s).getD addr.toNat 0

/-- Output `rd_data`: the byte at `rd_addr`, combinational (R71). -/
def rdData (s : State) : Byte := readReg s s.rdAddr

/-- `MemRead` over several cycles: byte `i` is read in the state of its own cycle, so a read across an edge can be torn
(R74, R331). The address port has 8 bits, so addresses wrap (log entry 9). -/
def memReadOver (addr : Byte) : List State → Nat
  | [] => 0
  | s :: rest => (readReg s addr).toNat + 256 * memReadOver (addr + 1) rest

/-- `MemRead(addr, n)` while no edge intervenes: `n` bytes of one state, combined little-endian (R74). -/
def memRead (s : State) (addr : Byte) (n : Nat) : Nat := memReadOver addr (List.replicate n s)

end Sys2Proof.Machine
end

