-- ==== Sys2Proof/Safety.lean ====
section
/-! DEFINITION. The terms the claims are stated in: a legal configuration, a good state, the table of checks of R270, the
state a completed transfer leaves, repeated commands and the end of a run (spec/00_scope.md R12, R17; spec/10_state.md R33,
R36, R41, R44; spec/42_stepper.md R211; spec/60_exceptions.md R270, R272; spec/70_reset_and_hazards.md R312). -/

namespace Sys2Proof.Machine

/-! ### Legal configurations (R12) -/

/-- The eight latch bits of the layout, in the order of the table of R24. -/
def latchBits (c : Params) : List (Fin 8) :=
  [c.latchBit.m1.a, c.latchBit.m1.b, c.latchBit.m2.a, c.latchBit.m2.b,
    c.latchBit.m3.a, c.latchBit.m3.b, c.latchBit.m4.a, c.latchBit.m4.b]

/-- The four properties of `CURVE`, and its length `M+1` (R211). -/
structure CurveLegal (c : Params) : Prop where
  length : c.curve.length = microsteps c + 1
  first : curveAt c 0 = 0
  last : curveAt c (microsteps c) = 255
  positive : ∀ i, 0 < i → i ≤ microsteps c → 0 < curveAt c i
  rising : ∀ i, i < microsteps c → curveAt c i ≤ curveAt c (i + 1)

/-- A configuration within the legal values of R12. -/
structure Legal (c : Params) : Prop where
  /-- `LATCH_BIT` is a bijection onto bits 0 to 7: eight different bits (R24). -/
  layout : (latchBits c).Nodup
  /-- `CURVE` meets R211. -/
  curve : CurveLegal c
  /-- `F_CLK` is a positive multiple of 1,000,000. -/
  clock : 0 < c.fClk ∧ c.fClk % 1000000 = 0
  /-- `L_DIV` is at least 1. -/
  divider : 1 ≤ c.lDiv

/-! ### Good states (R44) -/

/-- No latch bit and no PWM channel has two owners: a constructed stepper has neither of its DC slots constructed (R33). -/
def SingleOwners (s : State) : Prop :=
  ∀ st : Stepper, getStepper s.stInit st = true →
    getMotor s.dcInit (coil1 st) = false ∧ getMotor s.dcInit (coil2 st) = false

/-- Both phases are below `4*M` (R201). -/
def PhasesInRange (s : State) : Prop :=
  ∀ st : Stepper, (getStepper s.currentstep st).toNat < phases s.cfg

/-- What holds of the registers after every edge: the invariants of R44, the ranges of R36 and R41, and that each part of
the sequencer's state is in use only in its own phase of a command. -/
structure Good (s : State) : Prop where
  owners : SingleOwners s
  phase : PhasesInRange s
  busyWhileActive : s.seqState ≠ .idle → s.busy = true
  stuckIsIdle : s.fault = true → s.seqState = .idle ∧ s.busy = false
  codeOfFault : s.fault = false ↔ s.faultCode = .none
  outputsOpen : s.oeN = !s.enabled
  shown : s.enabled = true → s.outQ = s.latchState
  shiftRange : s.xferCycle ≤ 17
  prescaleRange : s.prescale < cycPerUs s.cfg
  dividerRange : s.divCount ≤ s.cfg.lDiv
  counterRange : ∀ ch : Channel, getChannel s.pwmCnt ch ≤ 254
  stepsBusy : s.stepsRemaining ≠ 0 → s.busy = true
  /-- Between ENABLE's commit and its last edge the outputs already hold the byte they will show (R150). -/
  enabling : s.seqState = .idle → s.busy = true → s.stepsRemaining = 0 → s.outQ = s.latchState
  waitOnly : s.seqState ≠ .wait → s.usRemaining = 0
  divideOnly : s.seqState ≠ .div → s.divCount = 0
  pendingOnly : s.seqState = .idle ∨ s.seqState = .wait → s.pending = []

/-- How far the external register is while a transfer of `v` is at edge offset `k`: `RCLK` is low, `SRCLK` is high after
each shifting edge, and the low bits of `sr` are the top bits of `v` (R145). -/
structure Shifting (s : State) : Prop where
  early : s.xferCycle ≤ 16
  latchClock : s.rclk = false
  shiftClock : 0 < s.xferCycle → s.srclk = decide (s.xferCycle % 2 = 0)
  shifted : ∀ i, i < s.xferCycle / 2 → s.sr.getLsbD i = s.xferValue.getLsbD (8 - s.xferCycle / 2 + i)
  nextBit : s.xferCycle % 2 = 1 → s.ser = s.xferValue.getLsbD (7 - s.xferCycle / 2)

/-- The invariant of the machine, at every clock edge: the state is good, and so is the state that the transfer or
division in progress will leave. -/
structure Inv (s : State) : Prop where
  good : Good s
  shifting : s.seqState = .xfer → Shifting s
  afterCommit : s.seqState = .xfer → Good (commitEdge (shiftedOut s.xferValue s.pending s))
  afterDivide : s.seqState = .div → Good (finishDivide s.pending s)

/-! ### The legal codes of a word (R103 to R105) -/

/-- `IDX` is legal for the opcode; ENABLE and WRITE_LATCH do not use it (R103). -/
def idxLegal (op : Op) (i : BitVec 3) : Bool :=
  match op with
  | .enable => true
  | .writeLatch => true
  | .setDuty => decide (i.toNat ≤ 3)
  | .dcInit => decide (1 ≤ i.toNat ∧ i.toNat ≤ 4)
  | .dcRun => decide (1 ≤ i.toNat ∧ i.toNat ≤ 4)
  | .dcSpeed => decide (1 ≤ i.toNat ∧ i.toNat ≤ 4)
  | .stepperInit => decide (1 ≤ i.toNat ∧ i.toNat ≤ 2)
  | .stepperSpeed => decide (1 ≤ i.toNat ∧ i.toNat ≤ 2)
  | .onestep => decide (1 ≤ i.toNat ∧ i.toNat ≤ 2)
  | .step => decide (1 ≤ i.toNat ∧ i.toNat ≤ 2)
  | .release => decide (1 ≤ i.toNat ∧ i.toNat ≤ 2)

/-- `DIR` is legal for the opcode: all four directions for DC_RUN, two for a stepper, unused elsewhere (R104). -/
def dirLegal (op : Op) (d : BitVec 3) : Bool :=
  match op with
  | .dcRun => decide (1 ≤ d.toNat ∧ d.toNat ≤ 4)
  | .onestep => decide (1 ≤ d.toNat ∧ d.toNat ≤ 2)
  | .step => decide (1 ≤ d.toNat ∧ d.toNat ≤ 2)
  | .enable => true
  | .writeLatch => true
  | .setDuty => true
  | .dcInit => true
  | .dcSpeed => true
  | .stepperInit => true
  | .stepperSpeed => true
  | .release => true

/-- `STY` is legal for the opcode; only ONESTEP and STEP use it (R105). -/
def styLegal (op : Op) (y : BitVec 3) : Bool :=
  match op with
  | .onestep => decide (1 ≤ y.toNat ∧ y.toNat ≤ 4)
  | .step => decide (1 ≤ y.toNat ∧ y.toNat ≤ 4)
  | .enable => true
  | .writeLatch => true
  | .setDuty => true
  | .dcInit => true
  | .dcRun => true
  | .dcSpeed => true
  | .stepperInit => true
  | .stepperSpeed => true
  | .release => true

/-! ### The checks of a command (R270, R272) -/

/-- The state checks, one for each column of the table of R270. -/
inductive Check where
  | enabled | initialized | conflict | speedZero | speedSet
deriving DecidableEq, Repr

/-- The rows of the table of R270, in the order of R272. -/
def checksOf : Instr → List Check
  | .enable => []
  | .writeLatch _ => [.enabled]
  | .setDuty _ _ => []
  | .dcInit _ => [.enabled, .conflict]
  | .dcRun _ _ => [.enabled, .initialized]
  | .dcSpeed _ _ => [.initialized]
  | .stepperInit _ _ => [.enabled, .conflict]
  | .stepperSpeed _ _ => [.initialized, .speedZero]
  | .onestep _ _ _ => [.enabled, .initialized]
  | .step _ _ _ _ => [.enabled, .initialized, .speedSet]
  | .release _ => [.enabled, .initialized]

/-- The slot a command is about, if it is about one. -/
def slotOf : Instr → Option Owner
  | .enable => none
  | .writeLatch _ => none
  | .setDuty _ _ => none
  | .dcInit n => some (.motor n)
  | .dcRun n _ => some (.motor n)
  | .dcSpeed n _ => some (.motor n)
  | .stepperInit st _ => some (.stepper st)
  | .stepperSpeed st _ => some (.stepper st)
  | .onestep st _ _ => some (.stepper st)
  | .step st _ _ _ => some (.stepper st)
  | .release st => some (.stepper st)

/-- The slots that share a bit with a slot, itself included (R24, R33). -/
def rivals : Owner → List Owner
  | .motor .m1 => [.motor .m1, .stepper .s1]
  | .motor .m2 => [.motor .m2, .stepper .s1]
  | .motor .m3 => [.motor .m3, .stepper .s2]
  | .motor .m4 => [.motor .m4, .stepper .s2]
  | .stepper .s1 => [.stepper .s1, .motor .m1, .motor .m2]
  | .stepper .s2 => [.stepper .s2, .motor .m3, .motor .m4]

/-- The rpm operand, for the check of R268; no other command makes that check. -/
def rpmOf : Instr → Option Half
  | .stepperSpeed _ rpm => some rpm
  | .enable => none
  | .writeLatch _ => none
  | .setDuty _ _ => none
  | .dcInit _ => none
  | .dcRun _ _ => none
  | .dcSpeed _ _ => none
  | .stepperInit _ _ => none
  | .onestep _ _ _ => none
  | .step _ _ _ _ => none
  | .release _ => none

/-- A check fails for a slot (R265 to R269). -/
def checkFails (k : Check) (i : Instr) (o : Owner) (s : State) : Bool :=
  match k, o with
  | .enabled, _ => !s.enabled
  | .initialized, o => !constructed s o
  | .conflict, o => (rivals o).any (constructed s)
  | .speedZero, .stepper st => decide (getStepper s.revsteps st = 0) || decide (rpmOf i = some 0)
  | .speedSet, .stepper st => !getStepper s.speedSet st
  | .speedZero, .motor _ => false
  | .speedSet, .motor _ => false

/-- The fault a failed check raises (R263). -/
def checkCode : Check → FaultCode
  | .enabled => .notEnabled
  | .initialized => .notInitialized
  | .conflict => .resourceConflict
  | .speedZero => .speedZero
  | .speedSet => .speedUnset

/-- The code of the first check of a well-formed command that fails, in the order of R272. -/
def firstFailure (i : Instr) (s : State) : Option FaultCode :=
  ((checksOf i).find? fun k => checkFails k i ((slotOf i).getD (.motor .m1)) s).map checkCode

/-! ### What a completed transfer leaves -/

/-- `s` after a completed 18-cycle transfer of `v` that commits the duties `d`: the byte is at `out_q` and in
`latch_state`, the pins hold their levels (R148), the port is free, and one output event with no wait was produced (R17). -/
def transferred (v : Byte) (d : PerChannel Byte) (s : State) : State :=
  { s with
    latchState := v
    duty := d
    busy := false
    seqState := .idle
    xferCycle := 0
    xferValue := v
    pending := []
    ser := v.getLsbD 0
    srclk := true
    rclk := true
    sr := v
    outQ := v
    events := ⟨v, d, 0⟩ :: s.events
    clock := s.clock + 18 }

/-- `s` with a fault raised for the word on the port, one cycle later: three registers and the clock (R262). -/
def faulted (code : FaultCode) (s : State) : State :=
  { s with fault := true, faultCode := code, faultCmd := s.cmdWord, clock := s.clock + 1 }

/-- The duties with both channels of a stepper replaced. -/
def withCoilDuties (d : PerChannel Byte) (st : Stepper) (da db : Byte) : PerChannel Byte :=
  setChannel (setChannel d (chA st) da) (chB st) db

/-! ### Runs -/

/-- The end of a run: every command has been presented and accepted, and the port is ready (R312). -/
def RunEnded (s : State) : Prop :=
  (∀ w, EnvMove.present w ∉ s.env) ∧ s.cmdValid = false ∧ cmdReady s = true

/-- One command executed `k` times in a row. -/
def execTimes (i : Instr) : Nat → State → Host.Outcome State Fault Refusal
  | 0, s => .next s
  | k + 1, s =>
    match exec i s with
    | .next s' => execTimes i k s'
    | .fault r => .fault r
    | .refused r => .refused r

/-- `k` steps of the machine. -/
def stepTimes (k : Nat) (s : State) : Host.Outcome State Fault Refusal := Sys2Proof.core.run k s

/-- `k` ticks of the PWM generators of a group. -/
def pwmTicks (g : Group) : Nat → State → State
  | 0, s => s
  | k + 1, s => pwmTicks g k (pwmTick g s)

/-- The phase `k` strides of a style away from `p`, forward or back, modulo `4*M` (R240). -/
def phaseAfter (c : Params) (dir : Direction) (sty : Style) (p : Byte) (k : Nat) : Nat :=
  match dir with
  | .forward => (p.toNat + k * stride c sty) % phases c
  | .backward => (p.toNat + k * (phases c - stride c sty)) % phases c
  | .brake => p.toNat
  | .release => p.toNat

/-- The output event of step `k` of a STEP of stepper `st` accepted in `s` (R213, R214, R221). -/
def stepEvent (s : State) (st : Stepper) (dir : Direction) (sty : Style) (k : Nat) : OutputEvent :=
  let p := BitVec.ofNat 8 (phaseAfter s.cfg dir sty (getStepper s.currentstep st) (k + 1))
  let out := phaseOut s.cfg st p sty
  ⟨mergeBits s.latchState (maskST s.cfg st) out.set, withCoilDuties s.duty st out.da out.db,
    spacing s.cfg sty (getStepper s.usperstep st)⟩

/-- What STEP checks holds of stepper `st` (R221). -/
structure StepReady (s : State) (st : Stepper) : Prop where
  enabled : s.enabled = true
  initialized : getStepper s.stInit st = true
  speedSet : getStepper s.speedSet st = true

/-- A command is on the port, no other agent moves first, and the port is ready (R38). -/
structure Presented (s : State) : Prop where
  first : s.env = [] ∨ ∃ w rest, s.env = .present w :: rest
  valid : s.cmdValid = true
  ready : cmdReady s = true

/-- A command about DC slot `n` (R182 to R184). -/
def IsDcCommand (n : Motor) (i : Instr) : Prop :=
  i = .dcInit n ∨ (∃ dir, i = .dcRun n dir) ∨ (∃ v, i = .dcSpeed n v)

/-- The output events of a run, oldest first (R17). -/
def trace (s : State) : List OutputEvent := s.events.reverse

/-- The state without the model's own bookkeeping of a run: its events and its clock. -/
def architectural (s : State) : State := { s with events := [], clock := 0 }

end Sys2Proof.Machine
end

