-- ==== Sys2Proof/Certificates/Slice0/Obligations.lean ====
section
/-! DEFINITION. The statements for the provers. Each docstring names the rules it formalises. Where a statement rests on a
choice of the model, its docstring says so and names the log entry. Throughout: `clock` and `events` are the model's own
record of a run (log entries 7 and 6), `xfer_cycle`, `xfer_value`, `pending` and `div_count` after a command are as log
entry 8 says, and who moves in a step is as log entry 2 says. -/

open Sys2Proof Sys2Proof.Machine

/-! ### Encoding -/

/-- R101, R107, R111: encoding a well-formed command and decoding the word gives the command back, every operand with
it. -/
def Obligations.DecodeOfEncodeIsTheCommand : Prop :=
  ∀ i : Instr, i.wf = true → decodeWord (encode i) = .ok i

/-- R106, R109, R111: every word the decoder accepts is the encoding of the well-formed command it reads: no bit is
ignored. -/
def Obligations.EncodeOfDecodeIsTheWord : Prop :=
  ∀ (w : Word) (i : Instr), decodeWord w = .ok i → encode i = w ∧ i.wf = true

/-- R111: the order of the decode checks, on every word: opcode, must-be-zero bits, index, direction, style; a word
that passes them all is a command of its opcode's row with its own field values. -/
def Obligations.DecodeChecksComeInOrder : Prop :=
  ∀ w : Word,
    ((fieldOP w).toNat = 0 ∨ 12 ≤ (fieldOP w).toNat → decodeWord w = .error .illegalOpcode) ∧
    ∀ op : Op, fieldOP w = op.code →
      (w &&& op.maskBits ≠ op.matchBits → decodeWord w = .error .reservedField) ∧
      (w &&& op.maskBits = op.matchBits →
        (idxLegal op (fieldIDX w) = false → decodeWord w = .error .badIndex) ∧
        (idxLegal op (fieldIDX w) = true →
          (dirLegal op (fieldDIR w) = false → decodeWord w = .error .badDirection) ∧
          (dirLegal op (fieldDIR w) = true →
            (styLegal op (fieldSTY w) = false → decodeWord w = .error .badStyle) ∧
            (styLegal op (fieldSTY w) = true → ∃ i, decodeWord w = .ok i ∧ i.op = op ∧ encode i = w))))

/-- R114: the worked encodings, one per opcode, both ways. -/
def Obligations.WorkedEncodings : Prop :=
  (encode .enable = 0x10000000 ∧ decodeWord 0x10000000 = .ok .enable) ∧
  (encode (.writeLatch 0xA5) = 0x200000A5 ∧ decodeWord 0x200000A5 = .ok (.writeLatch 0xA5)) ∧
  (encode (.setDuty .ch2 128) = 0x34000080 ∧ decodeWord 0x34000080 = .ok (.setDuty .ch2 128)) ∧
  (encode (.dcInit .m1) = 0x42000000 ∧ decodeWord 0x42000000 = .ok (.dcInit .m1)) ∧
  (encode (.dcRun .m1 .forward) = 0x52400000 ∧ decodeWord 0x52400000 = .ok (.dcRun .m1 .forward)) ∧
  (encode (.dcSpeed .m1 200) = 0x620000C8 ∧ decodeWord 0x620000C8 = .ok (.dcSpeed .m1 200)) ∧
  (encode (.stepperInit .s1 200) = 0x720000C8 ∧ decodeWord 0x720000C8 = .ok (.stepperInit .s1 200)) ∧
  (encode (.stepperSpeed .s1 60) = 0x8200003C ∧ decodeWord 0x8200003C = .ok (.stepperSpeed .s1 60)) ∧
  (encode (.onestep .s1 .forward .single) = 0x92480000 ∧
    decodeWord 0x92480000 = .ok (.onestep .s1 .forward .single)) ∧
  (encode (.step .s1 200 .forward .single) = 0xA24800C8 ∧
    decodeWord 0xA24800C8 = .ok (.step .s1 200 .forward .single)) ∧
  (encode (.release .s1) = 0xB2000000 ∧ decodeWord 0xB2000000 = .ok (.release .s1))

/-! ### The command port and faults -/

/-- R38, R84: when a command is on the port and the port is ready, the step takes the word off the port and is `exec`
of the command it decodes to. The choice of who moves is the model's: log entry 2. -/
def Obligations.StepRunsTheDecodedCommand : Prop :=
  ∀ (s : State) (i : Instr), Presented s → decodeWord s.cmdWord = .ok i →
    step s = exec i { s with cmdValid := false }

/-- R111, R262, R264: a word that does not decode raises its decode fault, and changes nothing else. -/
def Obligations.UndecodableWordRaisesItsFault : Prop :=
  ∀ (s : State) (why : DecodeFault), Presented s → decodeWord s.cmdWord = .error why →
    step s = .next (faulted (decodeFaultCode why) { s with cmdValid := false })

/-- R38, R286: a command presented while the port is not ready has no effect and stays presented. The choice of who
moves is the model's: log entry 2. -/
def Obligations.ClosedPortHoldsTheCommand : Prop :=
  ∀ (s : State) (w : Word), cmdReady s = false → s.env = [] →
    ∃ t, step { s with cmdValid := false } = .next t ∧
      step { s with cmdValid := true, cmdWord := w } = .next { t with cmdValid := true, cmdWord := w }

/-- R262, R275: in the fault state no step but a reset changes any state of the block: the fault registers, the latch,
the duties, the motors, the sequencer and the pins all stay. Only the PWM generators, the host's inputs, the waiting
moves and the clock go on. That a stuck block still takes steps is the model's choice: log entry 12. -/
def Obligations.FaultHoldsUntilReset : Prop :=
  ∀ s t : State, Inv s → s.fault = true → (∀ rest, s.env ≠ .reset :: rest) → step s = .next t →
    t = { s with env := t.env, cmdValid := t.cmdValid, cmdWord := t.cmdWord, rdAddr := t.rdAddr,
                 pwmCnt := t.pwmCnt, pwmActive := t.pwmActive, clock := t.clock }

/-- R262, R274: a fault is precise: a command that raises one changes the three fault registers and nothing else (the
clock passes one cycle). -/
def Obligations.FaultsArePrecise : Prop :=
  ∀ (i : Instr) (s t : State), s.fault = false → exec i s = .next t → t.fault = true →
    t.faultCode ≠ .none ∧ t = faulted t.faultCode s

/-- R265 to R270, R272: of the checks of the table of R270, in the order of R272, the first that fails is the fault
raised. -/
def Obligations.FirstFailingCheckIsRaised : Prop :=
  ∀ (i : Instr) (s : State) (code : FaultCode), i.wf = true → firstFailure i s = some code →
    exec i s = .next (faulted code s)

/-- R260, R261: a command that passes its checks completes and raises no fault. -/
def Obligations.CommandPassingItsChecksCompletes : Prop :=
  ∀ (i : Instr) (s : State), i.wf = true → firstFailure i s = none →
    ∃ t, exec i s = .next t ∧ t.fault = s.fault ∧ t.faultCode = s.faultCode ∧ t.faultCmd = s.faultCmd

/-- R104: the terms of `Instr` that stand for a stepper's BRAKE or RELEASE end in BAD_DIRECTION, before every state
check. No word decodes to such a term; giving it this meaning is the model's choice: log entry 13. -/
def Obligations.StepperTakesNoOtherDirection : Prop :=
  ∀ (s : State) (st : Stepper) (n : Half) (dir : Direction) (sty : Style), dir.steps = false →
    exec (.onestep st dir sty) s = .next (faulted .badDirection s) ∧
    exec (.step st n dir sty) s = .next (faulted .badDirection s)

/-- R260, R261, R262: every step of the machine has a next state, in every state, and so has every command: nothing stops
the model. That a stuck block still takes steps is the model's choice (log entry 12), and so is that `exec` has a
meaning of the ill-formed terms (log entry 13) and in states whose port is not ready (log entry 15). -/
def Obligations.EveryStepHasANextState : Prop :=
  (∀ s : State, ∃ t, step s = .next t) ∧ (∀ (i : Instr) (s : State), ∃ t, exec i s = .next t)

/-! ### Latch and PWM commands -/

/-- R150, R320: ENABLE completes in every state: the byte 0 is transferred, the outputs open, 19 cycles pass, and
nothing else changes. -/
def Obligations.EnableOpensTheOutputs : Prop :=
  ∀ s : State, exec .enable s =
    .next { transferred 0 s.duty s with oeN := false, enabled := true, clock := s.clock + 19 }

/-- R151: WRITE_LATCH on an enabled block completes: the byte reaches `latch_state` and `out_q`, the duties are kept,
and nothing else changes. -/
def Obligations.WriteLatchReplacesTheByte : Prop :=
  ∀ (s : State) (v : Byte), s.enabled = true →
    exec (.writeLatch v) s = .next (transferred v s.duty s)

/-- R152: SET_DUTY completes in every state and writes one duty register. -/
def Obligations.SetDutyWritesOneDuty : Prop :=
  ∀ (s : State) (ch : Channel) (v : Byte), exec (.setDuty ch v) s =
    .next { s with duty := setChannel s.duty ch v, clock := s.clock + 1 }

/-- R87, R152, R184: SET_DUTY and DC_SPEED change one byte of the register-read space, the duty's, and no pin of the
serializer. -/
def Obligations.DutyCommandsChangeOneRegister : Prop :=
  ∀ (s : State) (ch : Channel) (n : Motor) (v : Byte), getMotor s.dcInit n = true → motorChannel n = ch →
    ∃ t, exec (.setDuty ch v) s = .next t ∧ exec (.dcSpeed n v) s = .next t ∧
      readReg t (0x04 + ch.idx.setWidth 8) = v ∧
      (∀ a : Byte, a ≠ 0x04 + ch.idx.setWidth 8 → readReg t a = readReg s a) ∧
      t.sr = s.sr ∧ t.outQ = s.outQ ∧ t.ser = s.ser ∧ t.srclk = s.srclk ∧ t.rclk = s.rclk ∧ t.oeN = s.oeN

/-- R146, R149: during edges `T` to `T+16` of a transfer `out_q` keeps its previous value; after the eight rising
`SRCLK` edges `sr` is the byte sent, whatever it held before; and at edge `T+17` all 8 bits of `out_q` change at once.
-/
def Obligations.TransferShowsAllBitsAtOnce : Prop :=
  ∀ (s : State) (v : Byte) (ups : List Update),
    (∀ k, k ≤ 16 → (clockEdges k (startTransfer v ups s)).outQ = s.outQ) ∧
    (clockEdges 16 (startTransfer v ups s)).sr = v ∧
    (clockEdges 17 (startTransfer v ups s)).outQ = v ∧
    (∀ k, k < 8 → (clockEdges 17 (startTransfer v ups s)).outQ.getLsbD k = v.getLsbD k)

/-- R145, R148: the levels of the serializer pins at every edge of a transfer, most significant bit first. -/
def Obligations.TransferWaveform : Prop :=
  ∀ (s : State) (v : Byte) (ups : List Update),
    let e := fun k => clockEdges k (startTransfer v ups s)
    ((e 0).rclk = false ∧ (e 0).srclk = s.srclk ∧ (e 0).ser = false) ∧
    (∀ i, i < 8 →
      ((e (1 + 2 * i)).rclk = false ∧ (e (1 + 2 * i)).srclk = false ∧ (e (1 + 2 * i)).ser = v.getLsbD (7 - i)) ∧
      ((e (2 + 2 * i)).rclk = false ∧ (e (2 + 2 * i)).srclk = true ∧ (e (2 + 2 * i)).ser = v.getLsbD (7 - i))) ∧
    ((e 17).rclk = true ∧ (e 17).srclk = true ∧ (e 17).ser = v.getLsbD 0) ∧
    (∀ k, k ≤ 17 → (e k).oeN = s.oeN)

/-! ### DC motor commands -/

/-- R182: DC_INIT of a free slot on an enabled block completes: bits and duty of the slot 0, the slot constructed, and
nothing else changes. -/
def Obligations.DcInitConstructsAFreeSlot : Prop :=
  ∀ (s : State) (n : Motor), s.enabled = true → getMotor s.dcInit n = false →
    getStepper s.stInit (motorStepper n) = false →
    exec (.dcInit n) s =
      .next { transferred (s.latchState &&& ~~~maskDC s.cfg n) (setChannel s.duty (motorChannel n) 0) s with
        dcInit := setMotor s.dcInit n true }

/-- R181, R183: DC_RUN of a constructed slot on an enabled block completes in each of the four directions: the slot's
bits are the direction's, RELEASE also clears its duty, and nothing else changes. -/
def Obligations.DcRunSetsTheBitPair : Prop :=
  ∀ (s : State) (n : Motor), s.enabled = true → getMotor s.dcInit n = true →
    let kept := s.latchState &&& ~~~maskDC s.cfg n
    exec (.dcRun n .forward) s = .next (transferred (kept ||| bitA s.cfg n) s.duty s) ∧
    exec (.dcRun n .backward) s = .next (transferred (kept ||| bitB s.cfg n) s.duty s) ∧
    exec (.dcRun n .brake) s = .next (transferred (kept ||| (bitA s.cfg n ||| bitB s.cfg n)) s.duty s) ∧
    exec (.dcRun n .release) s = .next (transferred kept (setChannel s.duty (motorChannel n) 0) s)

/-- R184: DC_SPEED of a constructed slot completes, enabled or not: one duty register. -/
def Obligations.DcSpeedWritesItsDuty : Prop :=
  ∀ (s : State) (n : Motor) (v : Byte), getMotor s.dcInit n = true → exec (.dcSpeed n v) s =
    .next { s with duty := setChannel s.duty (motorChannel n) v, clock := s.clock + 1 }

/-- R185: the bit pairs of DC_RUN with the default bit map, all other bits kept. -/
def Obligations.DcRunDefaultBits : Prop :=
  ∀ s : State, s.cfg.latchBit = defaultLatchBit → s.enabled = true →
    ∀ row ∈ [(Motor.m1, 0x04#8, 0x08#8, 0x0C#8), (.m2, 0x02#8, 0x10#8, 0x12#8),
             (.m3, 0x20#8, 0x80#8, 0xA0#8), (.m4, 0x01#8, 0x40#8, 0x41#8)],
      getMotor s.dcInit row.1 = true →
      ∀ dir : Direction, ∃ t, exec (.dcRun row.1 dir) s = .next t ∧
        t.latchState &&& row.2.2.2 =
          (match dir with | .forward => row.2.1 | .backward => row.2.2.1 | .brake => row.2.2.2 | .release => 0x00#8) ∧
        t.latchState &&& ~~~row.2.2.2 = s.latchState &&& ~~~row.2.2.2

/-- R91: two DC commands for different slots, one after the other in either order, each change only their own slot's
latch bits and channel. -/
def Obligations.DcCommandsKeepOtherSlots : Prop :=
  ∀ (s t u : State) (n m : Motor) (i j : Instr), Legal s.cfg → n ≠ m → IsDcCommand n i → IsDcCommand m j →
    exec i s = .next t → exec j t = .next u →
    (t.latchState &&& ~~~maskDC s.cfg n = s.latchState &&& ~~~maskDC s.cfg n) ∧
    (t.latchState &&& maskDC s.cfg m = s.latchState &&& maskDC s.cfg m) ∧
    (u.latchState &&& ~~~maskDC s.cfg m = t.latchState &&& ~~~maskDC s.cfg m) ∧
    (u.latchState &&& maskDC s.cfg n = t.latchState &&& maskDC s.cfg n) ∧
    (∀ ch, ch ≠ motorChannel n → getChannel t.duty ch = getChannel s.duty ch) ∧
    (∀ ch, ch ≠ motorChannel m → getChannel u.duty ch = getChannel t.duty ch)

/-- R33, R80, R180, R202: a command about a slot changes latch bits and duties of that slot only, no register of the other
stepper, and no construction flag of another slot. -/
def Obligations.MotorCommandsStayInTheirSlot : Prop :=
  ∀ (i : Instr) (o : Owner) (s t : State), slotOf i = some o → exec i s = .next t →
    (t.latchState &&& ~~~ownerMask s.cfg o = s.latchState &&& ~~~ownerMask s.cfg o) ∧
    (∀ ch, ownsChannel o ch = false → getChannel t.duty ch = getChannel s.duty ch) ∧
    (∀ st, o ≠ .stepper st →
      getStepper t.currentstep st = getStepper s.currentstep st ∧
      getStepper t.revsteps st = getStepper s.revsteps st ∧
      getStepper t.usperstep st = getStepper s.usperstep st ∧
      getStepper t.speedSet st = getStepper s.speedSet st ∧
      getStepper t.stInit st = getStepper s.stInit st) ∧
    (∀ n, o ≠ .motor n → getMotor t.dcInit n = getMotor s.dcInit n)

/-! ### Stepper commands -/

/-- R218: STEPPER_INIT of a free slot on an enabled block completes: released, phase 0, no speed, and nothing else
changes. -/
def Obligations.StepperInitConstructsAFreeSlot : Prop :=
  ∀ (s : State) (st : Stepper) (rs : Half), s.enabled = true → getStepper s.stInit st = false →
    getMotor s.dcInit (coil1 st) = false → getMotor s.dcInit (coil2 st) = false →
    exec (.stepperInit st rs) s =
      .next { transferred (s.latchState &&& ~~~maskST s.cfg st) (withCoilDuties s.duty st 0 0) s with
        stInit := setStepper s.stInit st true
        revsteps := setStepper s.revsteps st rs
        usperstep := setStepper s.usperstep st 0
        speedSet := setStepper s.speedSet st false
        currentstep := setStepper s.currentstep st 0 }

/-- R219, R320: STEPPER_SPEED of a constructed stepper with a nonzero product completes on a ready block with nothing
in flight, enabled or not: the rounded-down quotient, and nothing else. -/
def Obligations.StepperSpeedDividesDown : Prop :=
  ∀ (s : State) (st : Stepper) (rpm : Half), Inv s → cmdReady s = true → Legal s.cfg →
    getStepper s.stInit st = true → getStepper s.revsteps st ≠ 0 → rpm ≠ 0 →
    exec (.stepperSpeed st rpm) s =
      .next { s with
        usperstep := setStepper s.usperstep st
          (BitVec.ofNat 32 (60000000 / ((getStepper s.revsteps st).toNat * rpm.toNat)))
        speedSet := setStepper s.speedSet st true
        clock := s.clock + s.cfg.lDiv }

/-- R242: `usperstep` differs from `60,000,000 / (revsteps * rpm)` by less than 1 microsecond, rounding down. -/
def Obligations.SpeedIsWithinAMicrosecond : Prop :=
  ∀ (s : State) (st : Stepper) (rpm : Half), getStepper s.stInit st = true →
    getStepper s.revsteps st ≠ 0 → rpm ≠ 0 →
    ∃ t, exec (.stepperSpeed st rpm) s = .next t ∧
      let us := (getStepper t.usperstep st).toNat
      let prod := (getStepper s.revsteps st).toNat * rpm.toNat
      us * prod ≤ 60000000 ∧ 60000000 < (us + 1) * prod

/-- R214, R220: ONESTEP of a constructed stepper on an enabled block completes in both directions and all styles: the
new phase, its output committed with it, and nothing else. The speed is not checked. -/
def Obligations.OnestepMovesOneStride : Prop :=
  ∀ (s : State) (st : Stepper) (dir : Direction) (sty : Style), dir.steps = true → s.enabled = true →
    getStepper s.stInit st = true →
    let p := nextPhase s.cfg dir sty (getStepper s.currentstep st)
    let out := phaseOut s.cfg st p sty
    exec (.onestep st dir sty) s =
      .next { transferred ((s.latchState &&& ~~~maskST s.cfg st) ||| out.set)
          (withCoilDuties s.duty st out.da out.db) s with
        currentstep := setStepper s.currentstep st p
        result := p }

/-- R221, R230, R231: STEP of `n > 0` on a ready stepper completes its first transaction: one step as ONESTEP makes
it, the wait of the spacing, and `n - 1` steps left to be made, with `busy` set while there are any; nothing else
changes. That one transaction of STEP is one step with its wait is log entry 14. -/
def Obligations.StepMakesItsFirstStep : Prop :=
  ∀ (s : State) (st : Stepper) (n : Half) (dir : Direction) (sty : Style), dir.steps = true → StepReady s st → n ≠ 0 →
    let p := nextPhase s.cfg dir sty (getStepper s.currentstep st)
    let out := phaseOut s.cfg st p sty
    let v := (s.latchState &&& ~~~maskST s.cfg st) ||| out.set
    let d := withCoilDuties s.duty st out.da out.db
    let wait := spacing s.cfg sty (getStepper s.usperstep st)
    exec (.step st n dir sty) s =
      .next { transferred v d s with
        currentstep := setStepper s.currentstep st p
        result := p
        stepCtx := ⟨st, dir, sty, wait⟩
        stepsRemaining := n - 1
        usRemaining := 0
        prescale := 0
        busy := decide (n - 1 ≠ 0)
        events := ⟨v, d, wait⟩ :: s.events
        clock := s.clock + 18 + wait.toNat * cycPerUs s.cfg }

/-- R235: a STEP with `n = 0` that passes its checks lasts 1 cycle and writes no state. -/
def Obligations.StepOfZeroWritesNothing : Prop :=
  ∀ (s : State) (st : Stepper) (dir : Direction) (sty : Style), dir.steps = true → StepReady s st →
    exec (.step st 0 dir sty) s = .next { s with clock := s.clock + 1 }

/-- R222: RELEASE of a constructed stepper on an enabled block completes: bits and duties 0, nothing else. -/
def Obligations.ReleaseClearsTheCoils : Prop :=
  ∀ (s : State) (st : Stepper), s.enabled = true → getStepper s.stInit st = true →
    exec (.release st) s =
      .next (transferred (s.latchState &&& ~~~maskST s.cfg st) (withCoilDuties s.duty st 0 0) s)

/-- R243: after RELEASE the slot's four latch bits and both its duties are 0 and `currentstep` is unchanged, whatever
style was used last. -/
def Obligations.ReleaseKeepsThePhase : Prop :=
  ∀ (s t : State) (st : Stepper) (dir : Direction) (sty : Style), dir.steps = true → s.enabled = true →
    getStepper s.stInit st = true → exec (.onestep st dir sty) s = .next t →
    ∃ u, exec (.release st) t = .next u ∧
      u.latchState &&& maskST s.cfg st = 0 ∧ u.outQ &&& maskST s.cfg st = 0 ∧
      getChannel u.duty (chA st) = 0 ∧ getChannel u.duty (chB st) = 0 ∧
      getStepper u.currentstep st = getStepper t.currentstep st

/-- R240: after `N` steps of one style and direction from phase `P0` the style index has moved `N` entries and the
phase `N` strides, each modulo its length. `4*M - stride` forward is one stride back. -/
def Obligations.PhaseAfterManySteps : Prop :=
  ∀ (s : State) (st : Stepper) (sty : Style) (N : Nat), s.enabled = true → getStepper s.stInit st = true →
    PhasesInRange s →
    let p0 := getStepper s.currentstep st
    let w := stride s.cfg sty
    let L := tableLength s.cfg sty
    (∃ t, execTimes (.onestep st .forward sty) N s = .next t ∧
      (getStepper t.currentstep st).toNat = (p0.toNat + N * w) % phases s.cfg ∧
      styleIndex s.cfg sty (getStepper t.currentstep st) = (styleIndex s.cfg sty p0 + N) % L) ∧
    (∃ t, execTimes (.onestep st .backward sty) N s = .next t ∧
      (((getStepper t.currentstep st).toNat : Int) = ((p0.toNat : Int) - N * w) % (phases s.cfg : Int)) ∧
      ((styleIndex s.cfg sty (getStepper t.currentstep st) : Int) =
        ((styleIndex s.cfg sty p0 : Int) - N) % (L : Int)))

/-- R221, R233, R234, R242, R321: a STEP of `n > 0` runs to completion in `n` steps of the machine: `n` strides, `n`
transfers, `n` waits of the spacing, `n * (18 + spacing * CYC_PER_US)` cycles, and then the port is ready. -/
def Obligations.WholeStepCompletes : Prop :=
  ∀ (s : State) (st : Stepper) (n : Half) (dir : Direction) (sty : Style),
    s.env = [] → s.cmdValid = true → cmdReady s = true → decodeWord s.cmdWord = .ok (.step st n dir sty) →
    n ≠ 0 → StepReady s st → PhasesInRange s →
    ∃ t, stepTimes n.toNat s = .next t ∧ cmdReady t = true ∧ t.cmdValid = false ∧
      t.stepsRemaining = 0 ∧ t.usRemaining = 0 ∧
      (getStepper t.currentstep st).toNat = phaseAfter s.cfg dir sty (getStepper s.currentstep st) n.toNat ∧
      t.result = getStepper t.currentstep st ∧
      t.events.length = s.events.length + n.toNat ∧
      t.clock = s.clock + n.toNat * (18 + (spacing s.cfg sty (getStepper s.usperstep st)).toNat * cycPerUs s.cfg)

/-- R17, R213, R214, R221: the output events of a whole STEP: step `k` shows the table entry or the LUT row of the
phase `k + 1` strides on, keeps every other latch bit and duty, and is tagged with the spacing. -/
def Obligations.WholeStepTrace : Prop :=
  ∀ (s : State) (st : Stepper) (n : Half) (dir : Direction) (sty : Style),
    s.env = [] → s.cmdValid = true → cmdReady s = true → decodeWord s.cmdWord = .ok (.step st n dir sty) →
    n ≠ 0 → StepReady s st → PhasesInRange s →
    ∃ t, stepTimes n.toNat s = .next t ∧
      trace t = trace s ++ (List.range n.toNat).map (stepEvent s st dir sty)

/-- R241: a STEP forward followed by the same STEP backward returns `currentstep`, for every `N` and every style. -/
def Obligations.StepRoundTrip : Prop :=
  ∀ (s : State) (st : Stepper) (n : Half) (sty : Style), cmdReady s = true → StepReady s st → PhasesInRange s →
    ∃ t u, stepTimes (max 1 n.toNat) (presentWord (encode (.step st n .forward sty)) s) = .next t ∧
      stepTimes (max 1 n.toNat) (presentWord (encode (.step st n .backward sty)) t) = .next u ∧
      getStepper u.currentstep st = getStepper s.currentstep st

/-- R245: with `revsteps = 200`, STEPPER_SPEED 60 gives `usperstep = 5000`, and STEP 200 FORWARD SINGLE makes exactly
200 latch writes, going through the SINGLE table 50 times and ending on the entry it started from. -/
def Obligations.TwoHundredSingleSteps : Prop :=
  ∀ (s : State) (st : Stepper), Inv s → cmdReady s = true → s.enabled = true → getStepper s.stInit st = true →
    getStepper s.revsteps st = 200 →
    ∃ t u, stepTimes 1 (presentWord (encode (.stepperSpeed st 60)) s) = .next t ∧
      getStepper t.usperstep st = 5000 ∧
      stepTimes 200 (presentWord (encode (.step st 200 .forward .single)) t) = .next u ∧
      u.events.length = t.events.length + 200 ∧
      (trace u).drop (trace t).length =
        (List.range 200).map (fun k =>
          ⟨mergeBits s.latchState (maskST s.cfg st)
              (coilBits s.cfg st (single4.getD ((styleIndex s.cfg .single (getStepper s.currentstep st) + k + 1) % 4) [])),
            withCoilDuties s.duty st 255 255, 5000⟩) ∧
      styleIndex s.cfg .single (getStepper u.currentstep st) =
        styleIndex s.cfg .single (getStepper s.currentstep st)

/-- R246, R247: a step keeps the phase's offset within the stride of its style; no step realigns it. -/
def Obligations.StepKeepsTheOffset : Prop :=
  ∀ (s t : State) (st : Stepper) (dir : Direction) (sty : Style), dir.steps = true → s.enabled = true →
    getStepper s.stInit st = true → PhasesInRange s → exec (.onestep st dir sty) s = .next t →
    (getStepper t.currentstep st).toNat % stride s.cfg sty =
      (getStepper s.currentstep st).toNat % stride s.cfg sty

/-- R203: the stepper sequencer never sets both bits of one coil: not in the byte any StepOnce sends, and so not in what a
completed ONESTEP, the first step of a STEP or a further step of one leaves at `out_q`. -/
def Obligations.NoCoilHasBothBits : Prop :=
  ∀ (s : State) (st : Stepper) (dir : Direction) (sty : Style), Legal s.cfg →
    let clear := fun (c : Params) (latch : Byte) (u : Stepper) =>
      coilPolarity c latch (coil1 u) ≠ .both ∧ coilPolarity c latch (coil2 u) ≠ .both
    clear s.cfg (stepByte s st dir sty) st ∧
    (∀ t, dir.steps = true → s.enabled = true → getStepper s.stInit st = true →
      exec (.onestep st dir sty) s = .next t → clear s.cfg t.outQ st ∧ clear s.cfg t.latchState st) ∧
    (∀ t n, dir.steps = true → StepReady s st → n ≠ 0 →
      exec (.step st n dir sty) s = .next t → clear s.cfg t.outQ st ∧ clear s.cfg t.latchState st) ∧
    (clear s.cfg (stepMove s).outQ s.stepCtx.stepper ∧ clear s.cfg (stepMove s).latchState s.stepCtx.stepper)

/-- R207: the pattern tables as latch bits, with the default bit map. -/
def Obligations.PatternTablesDefault : Prop :=
  ∀ c : Params, c.latchBit = defaultLatchBit →
    single4.map (coilBits c .s1) = [0x04, 0x02, 0x08, 0x10] ∧
    single4.map (coilBits c .s2) = [0x20, 0x01, 0x80, 0x40] ∧
    double4.map (coilBits c .s1) = [0x06, 0x0A, 0x18, 0x14] ∧
    double4.map (coilBits c .s2) = [0x21, 0x81, 0xC0, 0x60] ∧
    interleave8.map (coilBits c .s1) = [0x04, 0x06, 0x02, 0x0A, 0x08, 0x18, 0x10, 0x14] ∧
    interleave8.map (coilBits c .s2) = [0x20, 0x21, 0x01, 0x81, 0x80, 0xC0, 0x40, 0x60]

/-- R210, R213, R244: the output of every phase, and continuity. The phase `q*M + r` shows in SINGLE and DOUBLE entry `q`
of their tables, in INTERLEAVE entry `(q*M + r) div (M/2)`, each with both duties 255, and in MICROSTEP row `q` of the LUT
at offset `r`; what it sets are bits of the stepper. At `P = k*M` MICROSTEP drives exactly one coil, with duty 255 and the
polarity of `SINGLE4[k]`; at `P = k*M + M/2` it drives both coils with equal duty `CURVE[M/2]` and the polarities of
`DOUBLE4[k]`. The latch byte itself differs at `P = k*M`. -/
def Obligations.MicrostepIsContinuous : Prop :=
  (∀ (c : Params) (st : Stepper) (q r : Nat), q < 4 → r < microsteps c →
    let M := microsteps c
    let p := BitVec.ofNat 8 (q * M + r)
    let a := bitA c (coil1 st)
    let b := bitA c (coil2 st)
    let c' := bitB c (coil1 st)
    let d := bitB c (coil2 st)
    phaseOut c st p .single = ⟨[a, b, c', d].getD q 0, 255, 255⟩ ∧
    phaseOut c st p .double = ⟨[a ||| b, b ||| c', c' ||| d, d ||| a].getD q 0, 255, 255⟩ ∧
    phaseOut c st p .interleave =
      ⟨[a, a ||| b, b, b ||| c', c', c' ||| d, d, d ||| a].getD ((q * M + r) / (M / 2)) 0, 255, 255⟩ ∧
    phaseOut c st p .microstep =
      (match q with
        | 0 => ⟨a ||| b, curveAt c (M - r), curveAt c r⟩
        | 1 => ⟨b ||| c', curveAt c r, curveAt c (M - r)⟩
        | 2 => ⟨c' ||| d, curveAt c (M - r), curveAt c r⟩
        | _ => ⟨d ||| a, curveAt c r, curveAt c (M - r)⟩) ∧
    (∀ sty, (phaseOut c st p sty).set &&& ~~~(a ||| b ||| c' ||| d) = 0)) ∧
  ∀ (c : Params) (st : Stepper) (l : Byte) (k : Nat), Legal c → k < 4 →
    let show' := fun (set : Byte) => mergeBits l (maskST c st) set
    let atFull := phaseOut c st (BitVec.ofNat 8 (k * microsteps c)) .microstep
    let atHalf := phaseOut c st (BitVec.ofNat 8 (k * microsteps c + microsteps c / 2)) .microstep
    let single := coilBits c st (single4.getD k [])
    let double := coilBits c st (double4.getD k [])
    ((atFull.da = 255 ∧ atFull.db = 0) ∨ (atFull.da = 0 ∧ atFull.db = 255)) ∧
    effectiveDrive c (show' atFull.set) atFull.da (coil1 st) = effectiveDrive c (show' single) 255 (coil1 st) ∧
    effectiveDrive c (show' atFull.set) atFull.db (coil2 st) = effectiveDrive c (show' single) 255 (coil2 st) ∧
    show' atFull.set ≠ show' single ∧
    (atHalf.da = curveAt c (microsteps c / 2) ∧ atHalf.db = curveAt c (microsteps c / 2) ∧ atHalf.da ≠ 0) ∧
    effectiveDrive c (show' atHalf.set) atHalf.da (coil1 st) = effectiveDrive c (show' double) 255 (coil1 st) ∧
    effectiveDrive c (show' atHalf.set) atHalf.db (coil2 st) = effectiveDrive c (show' double) 255 (coil2 st)

/-- R82: ENABLE, WRITE_LATCH, SET_DUTY, DC_RUN, DC_SPEED, STEPPER_SPEED and RELEASE leave the same state when issued
twice in a row. -/
def Obligations.RepeatedCommandsLeaveTheSameState : Prop :=
  ∀ (s : State) (n : Motor) (dir : Direction) (ch : Channel) (st : Stepper) (v : Byte) (rpm : Half),
    ∀ i ∈ [Instr.enable, .writeLatch v, .setDuty ch v, .dcRun n dir, .dcSpeed n v, .stepperSpeed st rpm, .release st],
      i.wf = true → firstFailure i s = none →
      ∃ t u, exec i s = .next t ∧ exec i t = .next u ∧ architectural u = architectural t

/-! ### The register-read space -/

/-- R51 to R54, R72: every reserved address (0x0F, 0x12, 0x13, 0x18 to 0x1F, 0x28 to 0x2F, 0x38 to 0x3F, 0x40 to 0xFF)
reads 0x00 in every state, and reading any address, reserved or not, changes nothing but the address the host drives and
raises no fault. That driving `rd_addr` is a step of its own is the model's choice: log entry 2. -/
def Obligations.ReservedAddressesReadZero : Prop :=
  (∀ (s : State) (a : Byte),
    (a.toNat = 0x0F ∨ a.toNat = 0x12 ∨ a.toNat = 0x13 ∨ (0x18 ≤ a.toNat ∧ a.toNat ≤ 0x1F) ∨
      (0x28 ≤ a.toNat ∧ a.toNat ≤ 0x2F) ∨ (0x38 ≤ a.toNat ∧ a.toNat ≤ 0x3F) ∨ 0x40 ≤ a.toNat) →
    readReg s a = 0) ∧
  (∀ (s : State) (a : Byte) (rest : List EnvMove), s.env = .readAddr a :: rest →
    step s = .next { s with env := rest, rdAddr := a } ∧ rdData { s with env := rest, rdAddr := a } = readReg s a)

/-- R45 to R53, R263: where the registers stand in the register-read space, and the byte of every fault code. -/
def Obligations.RegisterMapLayout : Prop :=
  ∀ s : State,
    ((readReg s 0x00).getLsbD 0 = s.enabled ∧ (readReg s 0x00).getLsbD 1 = s.busy ∧
      (readReg s 0x00).getLsbD 2 = s.fault ∧ (readReg s 0x00).toNat < 8) ∧
    (readReg s 0x01 =
        (match s.faultCode with
          | .none => 0x00
          | .illegalOpcode => 0x01
          | .reservedField => 0x02
          | .badIndex => 0x03
          | .badDirection => 0x04
          | .badStyle => 0x05
          | .notEnabled => 0x06
          | .notInitialized => 0x07
          | .resourceConflict => 0x08
          | .speedZero => 0x09
          | .speedUnset => 0x0A) ∧
      readReg s 0x02 = s.latchState ∧ readReg s 0x0C = s.result) ∧
    ((readReg s 0x03).getLsbD 0 = s.dcInit.m1 ∧ (readReg s 0x03).getLsbD 1 = s.dcInit.m2 ∧
      (readReg s 0x03).getLsbD 2 = s.dcInit.m3 ∧ (readReg s 0x03).getLsbD 3 = s.dcInit.m4 ∧
      (readReg s 0x03).getLsbD 4 = s.stInit.s1 ∧ (readReg s 0x03).getLsbD 5 = s.stInit.s2 ∧
      (readReg s 0x03).toNat < 64) ∧
    (readReg s 0x04 = s.duty.ch0 ∧ readReg s 0x05 = s.duty.ch1 ∧ readReg s 0x06 = s.duty.ch2 ∧
      readReg s 0x07 = s.duty.ch3) ∧
    (readReg s 0x20 = s.currentstep.s1 ∧ readReg s 0x30 = s.currentstep.s2 ∧
      readReg s 0x21 = (if s.speedSet.s1 then 1 else 0) ∧ readReg s 0x31 = (if s.speedSet.s2 then 1 else 0)) ∧
    ((readReg s 0x0D).toNat = microsteps s.cfg ∧
      (readReg s 0x0E).getLsbD 0 = s.cfg.pwmPresent.ch0 ∧ (readReg s 0x0E).getLsbD 1 = s.cfg.pwmPresent.ch1 ∧
      (readReg s 0x0E).getLsbD 2 = s.cfg.pwmPresent.ch2 ∧ (readReg s 0x0E).getLsbD 3 = s.cfg.pwmPresent.ch3 ∧
      (readReg s 0x0E).toNat < 16)

/-- R74, R75: the multi-byte registers read little-endian, the least significant byte at the lowest address. -/
def Obligations.MultiByteRegistersReadLittleEndian : Prop :=
  ∀ s : State,
    memRead s 0x08 4 = s.faultCmd.toNat ∧
    memRead s 0x10 2 = s.stepsRemaining.toNat ∧
    memRead s 0x14 4 = s.usRemaining.toNat ∧
    (memRead s 0x22 2 = s.revsteps.s1.toNat ∧ memRead s 0x32 2 = s.revsteps.s2.toNat) ∧
    (memRead s 0x24 4 = s.usperstep.s1.toNat ∧ memRead s 0x34 4 = s.usperstep.s2.toNat)

/-! ### PWM generators -/

/-- R160: one tick of a group: its two channels count modulo 255 and load the duty at the wrap, and the other group's
channels do not move. -/
def Obligations.PwmTickMovesOneGroup : Prop :=
  ∀ (s : State) (g : Group) (ch : Channel),
    (channelGroup ch = g → getChannel s.pwmCnt ch = 254 →
      getChannel (pwmTick g s).pwmCnt ch = 0 ∧ getChannel (pwmTick g s).pwmActive ch = getChannel s.duty ch) ∧
    (channelGroup ch = g → getChannel s.pwmCnt ch ≠ 254 →
      getChannel (pwmTick g s).pwmCnt ch = getChannel s.pwmCnt ch + 1 ∧
      getChannel (pwmTick g s).pwmActive ch = getChannel s.pwmActive ch) ∧
    (channelGroup ch ≠ g →
      getChannel (pwmTick g s).pwmCnt ch = getChannel s.pwmCnt ch ∧
      getChannel (pwmTick g s).pwmActive ch = getChannel s.pwmActive ch)

/-- R161: where a channel has PWM its pin is high exactly while the counter is below the active duty, and so for as
many of the 255 ticks of a period as the duty says. -/
def Obligations.PwmPinIsHighForTheDuty : Prop :=
  ∀ (s : State) (ch : Channel), getChannel s.cfg.pwmPresent ch = true →
    (pwmPin s ch = true ↔ getChannel s.pwmCnt ch < (getChannel s.pwmActive ch).toNat) ∧
    (getChannel s.pwmCnt ch = 0 →
      ((List.range 255).filter fun k => pwmPin (pwmTicks (channelGroup ch) k s) ch).length =
        (getChannel s.pwmActive ch).toNat)

/-- R27, R162: where a channel has no PWM its pin follows the duty register with no period: off at 0 and on at 255,
whatever the generator does. -/
def Obligations.FallbackPinFollowsTheDuty : Prop :=
  ∀ (s : State) (ch : Channel) (g : Group), getChannel s.cfg.pwmPresent ch = false →
    (getChannel s.duty ch = 0 → pwmPin s ch = false) ∧
    (getChannel s.duty ch = 255 → pwmPin s ch = true) ∧
    pwmPin (pwmTick g s) ch = pwmPin s ch

/-- R41, R87, R160: no command reads the PWM generators, and none changes them. -/
def Obligations.CommandsIgnoreThePwmGenerators : Prop :=
  ∀ (i : Instr) (s t : State) (cnt : PerChannel Nat) (active : PerChannel Byte), exec i s = .next t →
    exec i { s with pwmCnt := cnt, pwmActive := active } = .next { t with pwmCnt := cnt, pwmActive := active }

/-! ### Cycle level -/

/-- R9, R233, R320, R321: the cycle-level machine refines the transactions: from a ready port with a command
presented, the command's number of clock edges leaves exactly the state `exec` answers, and from the boundary between
two steps of a STEP the edges of one step leave exactly the state of the next boundary. How the sequencer's own
registers stand between edges is log entry 8. -/
def Obligations.ClockEdgesRefineTheTransactions : Prop :=
  (∀ (s : State) (i : Instr), Inv s → Legal s.cfg → s.cmdValid = true → cmdReady s = true →
    decodeWord s.cmdWord = .ok i →
    exec i { s with cmdValid := false } = .next (clockEdges (planCycles (planOf i s) s) s)) ∧
  (∀ s : State, Legal s.cfg → atStepBoundary s = true →
    clockEdges (18 + s.stepCtx.spacing.toNat * cycPerUs s.cfg) s = stepMove s)

/-- R29, R38, R234, R320: the port is closed from the cycle after the accepting edge to the last edge of the command, all
`n` steps and waits of a STEP included, and a command that passes its checks leaves it open after that edge. -/
def Obligations.PortIsClosedForTheDuration : Prop :=
  ∀ (s : State) (i : Instr), Inv s → Legal s.cfg → s.cmdValid = true → cmdReady s = true →
    decodeWord s.cmdWord = .ok i →
    (∀ k, 1 ≤ k → k < durationCycles (planOf i s) s →
      (clockEdges k s).busy = true ∧ cmdReady (clockEdges k s) = false) ∧
    (firstFailure i s = none →
      (clockEdges (durationCycles (planOf i s) s) s).busy = false ∧
      cmdReady (clockEdges (durationCycles (planOf i s) s) s) = true)

/-- R85, R147: until its commit edge a latch command changes no register but STATUS and, for STEP, STEPS_REMAINING, and the
external outputs keep the old byte. From the boundary between two steps of a STEP to the commit of the next one no
register changes at all. -/
def Obligations.OldValuesUntilTheCommit : Prop :=
  (∀ (s : State) (i : Instr) (k : Nat) (a : Byte), s.cmdValid = true → cmdReady s = true →
    decodeWord s.cmdWord = .ok i → firstFailure i s = none → 18 ≤ planCycles (planOf i s) s →
    (∀ st rpm, i ≠ .stepperSpeed st rpm) → 1 ≤ k → k ≤ 17 → a ≠ 0x00 → a ≠ 0x10 → a ≠ 0x11 →
    readReg (clockEdges k s) a = readReg s a ∧ (clockEdges k s).outQ = s.outQ) ∧
  (∀ (s : State) (k : Nat), atStepBoundary s = true → k ≤ 17 →
    (∀ a : Byte, readReg (clockEdges k s) a = readReg s a) ∧ (clockEdges k s).outQ = s.outQ)

/-- R232: a wait of `S` microseconds started with `prescale = 0` counts `CYC_PER_US` edges to each microsecond and
ends at edge `S * CYC_PER_US`. -/
def Obligations.WaitCountsMicroseconds : Prop :=
  ∀ (s : State) (j : Nat), Legal s.cfg → s.seqState = .wait → s.prescale = 0 → 0 < s.usRemaining.toNat →
    (j < s.usRemaining.toNat * cycPerUs s.cfg →
      (clockEdges j s).seqState = .wait ∧
      (clockEdges j s).usRemaining.toNat = s.usRemaining.toNat - j / cycPerUs s.cfg ∧
      (clockEdges j s).prescale = j % cycPerUs s.cfg) ∧
    (j = s.usRemaining.toNat * cycPerUs s.cfg →
      (clockEdges j s).seqState = .idle ∧ (clockEdges j s).usRemaining = 0 ∧ (clockEdges j s).prescale = 0 ∧
      (clockEdges j s).busy = decide (s.stepsRemaining ≠ 0))

/-! ### Reset and the whole machine -/

/-- R300, R301, R302: reset wins over every other move and sets every piece of the block's state to its reset value,
whatever the block was doing; the external register and the configuration are not changed; the port is ready, and
every register reads 0 but the two configuration registers. That reset keeps the host's inputs is the model's choice:
log entry 11. -/
def Obligations.ResetSetsEveryRegister : Prop :=
  ∀ (s : State) (rest : List EnvMove), s.env = .reset :: rest → ∃ t, step s = .next t ∧
    (t.latchState = 0 ∧ t.duty = ⟨0, 0, 0, 0⟩ ∧ t.enabled = false ∧ t.busy = false ∧ t.fault = false ∧
      t.faultCode = .none ∧ t.faultCmd = 0 ∧ t.dcInit = ⟨false, false, false, false⟩ ∧ t.stInit = ⟨false, false⟩) ∧
    (t.currentstep = ⟨0, 0⟩ ∧ t.revsteps = ⟨0, 0⟩ ∧ t.usperstep = ⟨0, 0⟩ ∧ t.speedSet = ⟨false, false⟩ ∧ t.result = 0) ∧
    (t.seqState = .idle ∧ t.xferCycle = 0 ∧ t.xferValue = 0 ∧ t.pending = [] ∧ t.stepsRemaining = 0 ∧
      t.usRemaining = 0 ∧ t.prescale = 0 ∧ t.divCount = 0) ∧
    (t.pwmCnt = ⟨0, 0, 0, 0⟩ ∧ t.pwmActive = ⟨0, 0, 0, 0⟩ ∧ t.ser = false ∧ t.srclk = false ∧ t.rclk = false ∧
      t.oeN = true ∧ (∀ ch, pwmPin t ch = false) ∧ cmdReady t = true) ∧
    (t.sr = s.sr ∧ t.outQ = s.outQ ∧ t.cfg = s.cfg ∧ drv t = none) ∧
    (t.cmdValid = s.cmdValid ∧ t.cmdWord = s.cmdWord ∧ t.rdAddr = s.rdAddr ∧ t.env = rest) ∧
    (∀ a : Byte, a ≠ 0x0D → a ≠ 0x0E → readReg t a = 0) ∧
    ((readReg t 0x0D).toNat = microsteps s.cfg ∧ readReg t 0x0E = configPwmByte s.cfg)

/-- R311: clean enabled: after a reset edge and one ENABLE, the state is the reset state but for `enabled`, `OE_n`,
the external register and the pins. -/
def Obligations.CleanEnabledState : Prop :=
  ∀ (s : State) (rest : List EnvMove), s.env = .reset :: rest → ∃ t u, step s = .next t ∧ exec .enable t = .next u ∧
    u = { t with enabled := true, oeN := false, outQ := 0, sr := 0, rclk := true, srclk := true, ser := false,
                 events := u.events, clock := u.clock } ∧
    cmdReady u = true

/-- R44, R33, R36, R41, R201: the reset state meets the invariant. `State.reset` carries the configuration of log
entry 1. -/
def Obligations.ResetStateIsGood : Prop := Inv State.reset

/-- R44 with R33, R36, R41, R147, R201: every step of the machine, at either level, keeps the invariant: the phases
stay below `4*M`, no latch bit or channel gets two owners, an active sequencer is busy, a faulted block is idle,
`OE_n` follows `enabled`, and while the block is enabled `out_q` shows `latch_state`. -/
def Obligations.EveryStepKeepsTheInvariant : Prop :=
  ∀ s t : State, Inv s → step s = .next t → Inv t

/-- R12, R37, R164: no step changes the configuration. -/
def Obligations.ConfigurationNeverChanges : Prop :=
  ∀ s t : State, step s = .next t → t.cfg = s.cfg

/-- R28, R30, R31, R32, R44: `enabled`, `fault` and the construction flags go back to 0 only by reset. -/
def Obligations.FlagsAreClearedOnlyByReset : Prop :=
  ∀ s t : State, (∀ rest, s.env ≠ .reset :: rest) → step s = .next t →
    (s.enabled = true → t.enabled = true) ∧ (s.fault = true → t.fault = true) ∧
    (∀ n, getMotor s.dcInit n = true → getMotor t.dcInit n = true) ∧
    (∀ st, getStepper s.stInit st = true → getStepper t.stInit st = true)
end

