-- ==== Sys2Proof/Laws/State.lean ====
section
/-! SUPPORT. The small lemmas about State: reading a bank after writing it, what each shared operation leaves alone, one
lemma per field, and what each update writes. Later proofs cite these instead of unfolding record updates. -/

namespace Sys2Proof.Machine

/-! ### Banks: read after write -/

@[simp] theorem getMotor_setMotor_same {α : Type} (b : PerMotor α) (n : Motor) (v : α) :
    getMotor (setMotor b n v) n = v := by cases n <;> rfl

theorem getMotor_setMotor_ne {α : Type} (b : PerMotor α) {n m : Motor} (v : α) (h : m ≠ n) :
    getMotor (setMotor b n v) m = getMotor b m := by cases n <;> cases m <;> first | rfl | exact absurd rfl h

@[simp] theorem getStepper_setStepper_same {α : Type} (b : PerStepper α) (st : Stepper) (v : α) :
    getStepper (setStepper b st v) st = v := by cases st <;> rfl

theorem getStepper_setStepper_ne {α : Type} (b : PerStepper α) {st t : Stepper} (v : α) (h : t ≠ st) :
    getStepper (setStepper b st v) t = getStepper b t := by
  cases st <;> cases t <;> first | rfl | exact absurd rfl h

@[simp] theorem getChannel_setChannel_same {α : Type} (b : PerChannel α) (ch : Channel) (v : α) :
    getChannel (setChannel b ch v) ch = v := by cases ch <;> rfl

theorem getChannel_setChannel_ne {α : Type} (b : PerChannel α) {ch d : Channel} (v : α) (h : d ≠ ch) :
    getChannel (setChannel b ch v) d = getChannel b d := by
  cases ch <;> cases d <;> first | rfl | exact absurd rfl h

theorem getMotor_setMotor {α : Type} (b : PerMotor α) (n m : Motor) (v : α) :
    getMotor (setMotor b n v) m = if m = n then v else getMotor b m := by
  cases n <;> cases m <;> rfl

theorem getStepper_setStepper {α : Type} (b : PerStepper α) (st t : Stepper) (v : α) :
    getStepper (setStepper b st v) t = if t = st then v else getStepper b t := by
  cases st <;> cases t <;> rfl

theorem getChannel_setChannel {α : Type} (b : PerChannel α) (ch d : Channel) (v : α) :
    getChannel (setChannel b ch v) d = if d = ch then v else getChannel b d := by
  cases ch <;> cases d <;> rfl

@[simp] theorem setStepper_setStepper {α : Type} (b : PerStepper α) (st : Stepper) (v w : α) :
    setStepper (setStepper b st v) st w = setStepper b st w := by cases st <;> rfl

@[simp] theorem setChannel_setChannel {α : Type} (b : PerChannel α) (ch : Channel) (v w : α) :
    setChannel (setChannel b ch v) ch w = setChannel b ch w := by cases ch <;> rfl

@[simp] theorem setStepper_self {α : Type} (b : PerStepper α) (st : Stepper) :
    setStepper b st (getStepper b st) = b := by cases st <;> rfl

@[simp] theorem setChannel_self {α : Type} (b : PerChannel α) (ch : Channel) :
    setChannel b ch (getChannel b ch) = b := by cases ch <;> rfl

/-! ### What the end of a wait and its start leave alone -/

@[simp] theorem endWait_cfg (s : State) : (endWait s).cfg = s.cfg := rfl
@[simp] theorem endWait_latchState (s : State) : (endWait s).latchState = s.latchState := rfl
@[simp] theorem endWait_duty (s : State) : (endWait s).duty = s.duty := rfl
@[simp] theorem endWait_enabled (s : State) : (endWait s).enabled = s.enabled := rfl
@[simp] theorem endWait_fault (s : State) : (endWait s).fault = s.fault := rfl
@[simp] theorem endWait_faultCode (s : State) : (endWait s).faultCode = s.faultCode := rfl
@[simp] theorem endWait_faultCmd (s : State) : (endWait s).faultCmd = s.faultCmd := rfl
@[simp] theorem endWait_dcInit (s : State) : (endWait s).dcInit = s.dcInit := rfl
@[simp] theorem endWait_stInit (s : State) : (endWait s).stInit = s.stInit := rfl
@[simp] theorem endWait_currentstep (s : State) : (endWait s).currentstep = s.currentstep := rfl
@[simp] theorem endWait_revsteps (s : State) : (endWait s).revsteps = s.revsteps := rfl
@[simp] theorem endWait_usperstep (s : State) : (endWait s).usperstep = s.usperstep := rfl
@[simp] theorem endWait_speedSet (s : State) : (endWait s).speedSet = s.speedSet := rfl
@[simp] theorem endWait_result (s : State) : (endWait s).result = s.result := rfl
@[simp] theorem endWait_xferCycle (s : State) : (endWait s).xferCycle = s.xferCycle := rfl
@[simp] theorem endWait_xferValue (s : State) : (endWait s).xferValue = s.xferValue := rfl
@[simp] theorem endWait_pending (s : State) : (endWait s).pending = s.pending := rfl
@[simp] theorem endWait_stepsRemaining (s : State) : (endWait s).stepsRemaining = s.stepsRemaining := rfl
@[simp] theorem endWait_usRemaining (s : State) : (endWait s).usRemaining = s.usRemaining := rfl
@[simp] theorem endWait_prescale (s : State) : (endWait s).prescale = s.prescale := rfl
@[simp] theorem endWait_stepCtx (s : State) : (endWait s).stepCtx = s.stepCtx := rfl
@[simp] theorem endWait_divCount (s : State) : (endWait s).divCount = s.divCount := rfl
@[simp] theorem endWait_ser (s : State) : (endWait s).ser = s.ser := rfl
@[simp] theorem endWait_srclk (s : State) : (endWait s).srclk = s.srclk := rfl
@[simp] theorem endWait_rclk (s : State) : (endWait s).rclk = s.rclk := rfl
@[simp] theorem endWait_oeN (s : State) : (endWait s).oeN = s.oeN := rfl
@[simp] theorem endWait_sr (s : State) : (endWait s).sr = s.sr := rfl
@[simp] theorem endWait_outQ (s : State) : (endWait s).outQ = s.outQ := rfl
@[simp] theorem endWait_pwmCnt (s : State) : (endWait s).pwmCnt = s.pwmCnt := rfl
@[simp] theorem endWait_pwmActive (s : State) : (endWait s).pwmActive = s.pwmActive := rfl
@[simp] theorem endWait_cmdValid (s : State) : (endWait s).cmdValid = s.cmdValid := rfl
@[simp] theorem endWait_cmdWord (s : State) : (endWait s).cmdWord = s.cmdWord := rfl
@[simp] theorem endWait_rdAddr (s : State) : (endWait s).rdAddr = s.rdAddr := rfl
@[simp] theorem endWait_env (s : State) : (endWait s).env = s.env := rfl
@[simp] theorem endWait_events (s : State) : (endWait s).events = s.events := rfl
@[simp] theorem endWait_clock (s : State) : (endWait s).clock = s.clock := rfl
@[simp] theorem endWait_draws (s : State) : (endWait s).draws = s.draws := rfl

@[simp] theorem startWait_cfg (w : Word) (s : State) : (startWait w s).cfg = s.cfg := by
  unfold startWait; split <;> rfl
@[simp] theorem startWait_latchState (w : Word) (s : State) : (startWait w s).latchState = s.latchState := by
  unfold startWait; split <;> rfl
@[simp] theorem startWait_duty (w : Word) (s : State) : (startWait w s).duty = s.duty := by
  unfold startWait; split <;> rfl
@[simp] theorem startWait_enabled (w : Word) (s : State) : (startWait w s).enabled = s.enabled := by
  unfold startWait; split <;> rfl
@[simp] theorem startWait_fault (w : Word) (s : State) : (startWait w s).fault = s.fault := by
  unfold startWait; split <;> rfl
@[simp] theorem startWait_faultCode (w : Word) (s : State) : (startWait w s).faultCode = s.faultCode := by
  unfold startWait; split <;> rfl
@[simp] theorem startWait_faultCmd (w : Word) (s : State) : (startWait w s).faultCmd = s.faultCmd := by
  unfold startWait; split <;> rfl
@[simp] theorem startWait_dcInit (w : Word) (s : State) : (startWait w s).dcInit = s.dcInit := by
  unfold startWait; split <;> rfl
@[simp] theorem startWait_stInit (w : Word) (s : State) : (startWait w s).stInit = s.stInit := by
  unfold startWait; split <;> rfl
@[simp] theorem startWait_currentstep (w : Word) (s : State) : (startWait w s).currentstep = s.currentstep := by
  unfold startWait; split <;> rfl
@[simp] theorem startWait_revsteps (w : Word) (s : State) : (startWait w s).revsteps = s.revsteps := by
  unfold startWait; split <;> rfl
@[simp] theorem startWait_usperstep (w : Word) (s : State) : (startWait w s).usperstep = s.usperstep := by
  unfold startWait; split <;> rfl
@[simp] theorem startWait_speedSet (w : Word) (s : State) : (startWait w s).speedSet = s.speedSet := by
  unfold startWait; split <;> rfl
@[simp] theorem startWait_result (w : Word) (s : State) : (startWait w s).result = s.result := by
  unfold startWait; split <;> rfl
@[simp] theorem startWait_xferCycle (w : Word) (s : State) : (startWait w s).xferCycle = s.xferCycle := by
  unfold startWait; split <;> rfl
@[simp] theorem startWait_xferValue (w : Word) (s : State) : (startWait w s).xferValue = s.xferValue := by
  unfold startWait; split <;> rfl
@[simp] theorem startWait_pending (w : Word) (s : State) : (startWait w s).pending = s.pending := by
  unfold startWait; split <;> rfl
@[simp] theorem startWait_stepCtx (w : Word) (s : State) : (startWait w s).stepCtx = s.stepCtx := by
  unfold startWait; split <;> rfl
@[simp] theorem startWait_divCount (w : Word) (s : State) : (startWait w s).divCount = s.divCount := by
  unfold startWait; split <;> rfl
@[simp] theorem startWait_ser (w : Word) (s : State) : (startWait w s).ser = s.ser := by
  unfold startWait; split <;> rfl
@[simp] theorem startWait_srclk (w : Word) (s : State) : (startWait w s).srclk = s.srclk := by
  unfold startWait; split <;> rfl
@[simp] theorem startWait_rclk (w : Word) (s : State) : (startWait w s).rclk = s.rclk := by
  unfold startWait; split <;> rfl
@[simp] theorem startWait_oeN (w : Word) (s : State) : (startWait w s).oeN = s.oeN := by
  unfold startWait; split <;> rfl
@[simp] theorem startWait_sr (w : Word) (s : State) : (startWait w s).sr = s.sr := by
  unfold startWait; split <;> rfl
@[simp] theorem startWait_outQ (w : Word) (s : State) : (startWait w s).outQ = s.outQ := by
  unfold startWait; split <;> rfl
@[simp] theorem startWait_pwmCnt (w : Word) (s : State) : (startWait w s).pwmCnt = s.pwmCnt := by
  unfold startWait; split <;> rfl
@[simp] theorem startWait_pwmActive (w : Word) (s : State) : (startWait w s).pwmActive = s.pwmActive := by
  unfold startWait; split <;> rfl
@[simp] theorem startWait_cmdValid (w : Word) (s : State) : (startWait w s).cmdValid = s.cmdValid := by
  unfold startWait; split <;> rfl
@[simp] theorem startWait_cmdWord (w : Word) (s : State) : (startWait w s).cmdWord = s.cmdWord := by
  unfold startWait; split <;> rfl
@[simp] theorem startWait_rdAddr (w : Word) (s : State) : (startWait w s).rdAddr = s.rdAddr := by
  unfold startWait; split <;> rfl
@[simp] theorem startWait_env (w : Word) (s : State) : (startWait w s).env = s.env := by
  unfold startWait; split <;> rfl
@[simp] theorem startWait_events (w : Word) (s : State) : (startWait w s).events = s.events := by
  unfold startWait; split <;> rfl
@[simp] theorem startWait_clock (w : Word) (s : State) : (startWait w s).clock = s.clock := by
  unfold startWait; split <;> rfl
@[simp] theorem startWait_draws (w : Word) (s : State) : (startWait w s).draws = s.draws := by
  unfold startWait; split <;> rfl

@[simp] theorem startWait_stepsRemaining (w : Word) (s : State) :
    (startWait w s).stepsRemaining = s.stepsRemaining - 1 := by
  unfold startWait; split <;> rfl

@[simp] theorem startWait_usRemaining (w : Word) (s : State) : (startWait w s).usRemaining = w := by
  unfold startWait; split <;> rfl

@[simp] theorem startWait_prescale (w : Word) (s : State) : (startWait w s).prescale = 0 := by
  unfold startWait; split <;> rfl

/-! ### What an update leaves alone -/

@[simp] theorem applyUpdate_cfg (u : Update) (s : State) : (applyUpdate u s).cfg = s.cfg := by
  cases u <;> first | rfl | exact startWait_cfg _ s
@[simp] theorem applyUpdate_enabled (u : Update) (s : State) : (applyUpdate u s).enabled = s.enabled := by
  cases u <;> first | rfl | exact startWait_enabled _ s
@[simp] theorem applyUpdate_fault (u : Update) (s : State) : (applyUpdate u s).fault = s.fault := by
  cases u <;> first | rfl | exact startWait_fault _ s
@[simp] theorem applyUpdate_faultCode (u : Update) (s : State) : (applyUpdate u s).faultCode = s.faultCode := by
  cases u <;> first | rfl | exact startWait_faultCode _ s
@[simp] theorem applyUpdate_faultCmd (u : Update) (s : State) : (applyUpdate u s).faultCmd = s.faultCmd := by
  cases u <;> first | rfl | exact startWait_faultCmd _ s
@[simp] theorem applyUpdate_xferCycle (u : Update) (s : State) : (applyUpdate u s).xferCycle = s.xferCycle := by
  cases u <;> first | rfl | exact startWait_xferCycle _ s
@[simp] theorem applyUpdate_xferValue (u : Update) (s : State) : (applyUpdate u s).xferValue = s.xferValue := by
  cases u <;> first | rfl | exact startWait_xferValue _ s
@[simp] theorem applyUpdate_pending (u : Update) (s : State) : (applyUpdate u s).pending = s.pending := by
  cases u <;> first | rfl | exact startWait_pending _ s
@[simp] theorem applyUpdate_stepCtx (u : Update) (s : State) : (applyUpdate u s).stepCtx = s.stepCtx := by
  cases u <;> first | rfl | exact startWait_stepCtx _ s
@[simp] theorem applyUpdate_divCount (u : Update) (s : State) : (applyUpdate u s).divCount = s.divCount := by
  cases u <;> first | rfl | exact startWait_divCount _ s
@[simp] theorem applyUpdate_ser (u : Update) (s : State) : (applyUpdate u s).ser = s.ser := by
  cases u <;> first | rfl | exact startWait_ser _ s
@[simp] theorem applyUpdate_srclk (u : Update) (s : State) : (applyUpdate u s).srclk = s.srclk := by
  cases u <;> first | rfl | exact startWait_srclk _ s
@[simp] theorem applyUpdate_rclk (u : Update) (s : State) : (applyUpdate u s).rclk = s.rclk := by
  cases u <;> first | rfl | exact startWait_rclk _ s
@[simp] theorem applyUpdate_oeN (u : Update) (s : State) : (applyUpdate u s).oeN = s.oeN := by
  cases u <;> first | rfl | exact startWait_oeN _ s
@[simp] theorem applyUpdate_sr (u : Update) (s : State) : (applyUpdate u s).sr = s.sr := by
  cases u <;> first | rfl | exact startWait_sr _ s
@[simp] theorem applyUpdate_outQ (u : Update) (s : State) : (applyUpdate u s).outQ = s.outQ := by
  cases u <;> first | rfl | exact startWait_outQ _ s
@[simp] theorem applyUpdate_pwmCnt (u : Update) (s : State) : (applyUpdate u s).pwmCnt = s.pwmCnt := by
  cases u <;> first | rfl | exact startWait_pwmCnt _ s
@[simp] theorem applyUpdate_pwmActive (u : Update) (s : State) : (applyUpdate u s).pwmActive = s.pwmActive := by
  cases u <;> first | rfl | exact startWait_pwmActive _ s
@[simp] theorem applyUpdate_cmdValid (u : Update) (s : State) : (applyUpdate u s).cmdValid = s.cmdValid := by
  cases u <;> first | rfl | exact startWait_cmdValid _ s
@[simp] theorem applyUpdate_cmdWord (u : Update) (s : State) : (applyUpdate u s).cmdWord = s.cmdWord := by
  cases u <;> first | rfl | exact startWait_cmdWord _ s
@[simp] theorem applyUpdate_rdAddr (u : Update) (s : State) : (applyUpdate u s).rdAddr = s.rdAddr := by
  cases u <;> first | rfl | exact startWait_rdAddr _ s
@[simp] theorem applyUpdate_env (u : Update) (s : State) : (applyUpdate u s).env = s.env := by
  cases u <;> first | rfl | exact startWait_env _ s
@[simp] theorem applyUpdate_events (u : Update) (s : State) : (applyUpdate u s).events = s.events := by
  cases u <;> first | rfl | exact startWait_events _ s
@[simp] theorem applyUpdate_clock (u : Update) (s : State) : (applyUpdate u s).clock = s.clock := by
  cases u <;> first | rfl | exact startWait_clock _ s
@[simp] theorem applyUpdate_draws (u : Update) (s : State) : (applyUpdate u s).draws = s.draws := by
  cases u <;> first | rfl | exact startWait_draws _ s

/-! ### What a list of updates leaves alone -/

@[simp] theorem applyAll_nil (s : State) : applyAll [] s = s := rfl

@[simp] theorem applyAll_cons (u : Update) (us : List Update) (s : State) :
    applyAll (u :: us) s = applyAll us (applyUpdate u s) := rfl

theorem applyAll_append (us vs : List Update) (s : State) :
    applyAll (us ++ vs) s = applyAll vs (applyAll us s) := by
  induction us generalizing s with
  | nil => rfl
  | cons u us ih => exact ih _

@[simp] theorem applyAll_cfg (us : List Update) (s : State) : (applyAll us s).cfg = s.cfg := by
  induction us generalizing s with
  | nil => rfl
  | cons u us ih => rw [applyAll_cons, ih, applyUpdate_cfg]
@[simp] theorem applyAll_enabled (us : List Update) (s : State) : (applyAll us s).enabled = s.enabled := by
  induction us generalizing s with
  | nil => rfl
  | cons u us ih => rw [applyAll_cons, ih, applyUpdate_enabled]
@[simp] theorem applyAll_fault (us : List Update) (s : State) : (applyAll us s).fault = s.fault := by
  induction us generalizing s with
  | nil => rfl
  | cons u us ih => rw [applyAll_cons, ih, applyUpdate_fault]
@[simp] theorem applyAll_faultCode (us : List Update) (s : State) : (applyAll us s).faultCode = s.faultCode := by
  induction us generalizing s with
  | nil => rfl
  | cons u us ih => rw [applyAll_cons, ih, applyUpdate_faultCode]
@[simp] theorem applyAll_faultCmd (us : List Update) (s : State) : (applyAll us s).faultCmd = s.faultCmd := by
  induction us generalizing s with
  | nil => rfl
  | cons u us ih => rw [applyAll_cons, ih, applyUpdate_faultCmd]
@[simp] theorem applyAll_xferCycle (us : List Update) (s : State) : (applyAll us s).xferCycle = s.xferCycle := by
  induction us generalizing s with
  | nil => rfl
  | cons u us ih => rw [applyAll_cons, ih, applyUpdate_xferCycle]
@[simp] theorem applyAll_xferValue (us : List Update) (s : State) : (applyAll us s).xferValue = s.xferValue := by
  induction us generalizing s with
  | nil => rfl
  | cons u us ih => rw [applyAll_cons, ih, applyUpdate_xferValue]
@[simp] theorem applyAll_pending (us : List Update) (s : State) : (applyAll us s).pending = s.pending := by
  induction us generalizing s with
  | nil => rfl
  | cons u us ih => rw [applyAll_cons, ih, applyUpdate_pending]
@[simp] theorem applyAll_stepCtx (us : List Update) (s : State) : (applyAll us s).stepCtx = s.stepCtx := by
  induction us generalizing s with
  | nil => rfl
  | cons u us ih => rw [applyAll_cons, ih, applyUpdate_stepCtx]
@[simp] theorem applyAll_divCount (us : List Update) (s : State) : (applyAll us s).divCount = s.divCount := by
  induction us generalizing s with
  | nil => rfl
  | cons u us ih => rw [applyAll_cons, ih, applyUpdate_divCount]
@[simp] theorem applyAll_ser (us : List Update) (s : State) : (applyAll us s).ser = s.ser := by
  induction us generalizing s with
  | nil => rfl
  | cons u us ih => rw [applyAll_cons, ih, applyUpdate_ser]
@[simp] theorem applyAll_srclk (us : List Update) (s : State) : (applyAll us s).srclk = s.srclk := by
  induction us generalizing s with
  | nil => rfl
  | cons u us ih => rw [applyAll_cons, ih, applyUpdate_srclk]
@[simp] theorem applyAll_rclk (us : List Update) (s : State) : (applyAll us s).rclk = s.rclk := by
  induction us generalizing s with
  | nil => rfl
  | cons u us ih => rw [applyAll_cons, ih, applyUpdate_rclk]
@[simp] theorem applyAll_oeN (us : List Update) (s : State) : (applyAll us s).oeN = s.oeN := by
  induction us generalizing s with
  | nil => rfl
  | cons u us ih => rw [applyAll_cons, ih, applyUpdate_oeN]
@[simp] theorem applyAll_sr (us : List Update) (s : State) : (applyAll us s).sr = s.sr := by
  induction us generalizing s with
  | nil => rfl
  | cons u us ih => rw [applyAll_cons, ih, applyUpdate_sr]
@[simp] theorem applyAll_outQ (us : List Update) (s : State) : (applyAll us s).outQ = s.outQ := by
  induction us generalizing s with
  | nil => rfl
  | cons u us ih => rw [applyAll_cons, ih, applyUpdate_outQ]
@[simp] theorem applyAll_pwmCnt (us : List Update) (s : State) : (applyAll us s).pwmCnt = s.pwmCnt := by
  induction us generalizing s with
  | nil => rfl
  | cons u us ih => rw [applyAll_cons, ih, applyUpdate_pwmCnt]
@[simp] theorem applyAll_pwmActive (us : List Update) (s : State) : (applyAll us s).pwmActive = s.pwmActive := by
  induction us generalizing s with
  | nil => rfl
  | cons u us ih => rw [applyAll_cons, ih, applyUpdate_pwmActive]
@[simp] theorem applyAll_cmdValid (us : List Update) (s : State) : (applyAll us s).cmdValid = s.cmdValid := by
  induction us generalizing s with
  | nil => rfl
  | cons u us ih => rw [applyAll_cons, ih, applyUpdate_cmdValid]
@[simp] theorem applyAll_cmdWord (us : List Update) (s : State) : (applyAll us s).cmdWord = s.cmdWord := by
  induction us generalizing s with
  | nil => rfl
  | cons u us ih => rw [applyAll_cons, ih, applyUpdate_cmdWord]
@[simp] theorem applyAll_rdAddr (us : List Update) (s : State) : (applyAll us s).rdAddr = s.rdAddr := by
  induction us generalizing s with
  | nil => rfl
  | cons u us ih => rw [applyAll_cons, ih, applyUpdate_rdAddr]
@[simp] theorem applyAll_env (us : List Update) (s : State) : (applyAll us s).env = s.env := by
  induction us generalizing s with
  | nil => rfl
  | cons u us ih => rw [applyAll_cons, ih, applyUpdate_env]
@[simp] theorem applyAll_events (us : List Update) (s : State) : (applyAll us s).events = s.events := by
  induction us generalizing s with
  | nil => rfl
  | cons u us ih => rw [applyAll_cons, ih, applyUpdate_events]
@[simp] theorem applyAll_clock (us : List Update) (s : State) : (applyAll us s).clock = s.clock := by
  induction us generalizing s with
  | nil => rfl
  | cons u us ih => rw [applyAll_cons, ih, applyUpdate_clock]
@[simp] theorem applyAll_draws (us : List Update) (s : State) : (applyAll us s).draws = s.draws := by
  induction us generalizing s with
  | nil => rfl
  | cons u us ih => rw [applyAll_cons, ih, applyUpdate_draws]

/-! ### What raising a fault leaves alone: every field but three (R262) -/

@[simp] theorem raiseFault_cfg (c : FaultCode) (s : State) : (raiseFault c s).cfg = s.cfg := rfl
@[simp] theorem raiseFault_latchState (c : FaultCode) (s : State) : (raiseFault c s).latchState = s.latchState := rfl
@[simp] theorem raiseFault_duty (c : FaultCode) (s : State) : (raiseFault c s).duty = s.duty := rfl
@[simp] theorem raiseFault_enabled (c : FaultCode) (s : State) : (raiseFault c s).enabled = s.enabled := rfl
@[simp] theorem raiseFault_busy (c : FaultCode) (s : State) : (raiseFault c s).busy = s.busy := rfl
@[simp] theorem raiseFault_dcInit (c : FaultCode) (s : State) : (raiseFault c s).dcInit = s.dcInit := rfl
@[simp] theorem raiseFault_stInit (c : FaultCode) (s : State) : (raiseFault c s).stInit = s.stInit := rfl
@[simp] theorem raiseFault_currentstep (c : FaultCode) (s : State) : (raiseFault c s).currentstep = s.currentstep := rfl
@[simp] theorem raiseFault_revsteps (c : FaultCode) (s : State) : (raiseFault c s).revsteps = s.revsteps := rfl
@[simp] theorem raiseFault_usperstep (c : FaultCode) (s : State) : (raiseFault c s).usperstep = s.usperstep := rfl
@[simp] theorem raiseFault_speedSet (c : FaultCode) (s : State) : (raiseFault c s).speedSet = s.speedSet := rfl
@[simp] theorem raiseFault_result (c : FaultCode) (s : State) : (raiseFault c s).result = s.result := rfl
@[simp] theorem raiseFault_seqState (c : FaultCode) (s : State) : (raiseFault c s).seqState = s.seqState := rfl
@[simp] theorem raiseFault_xferCycle (c : FaultCode) (s : State) : (raiseFault c s).xferCycle = s.xferCycle := rfl
@[simp] theorem raiseFault_xferValue (c : FaultCode) (s : State) : (raiseFault c s).xferValue = s.xferValue := rfl
@[simp] theorem raiseFault_pending (c : FaultCode) (s : State) : (raiseFault c s).pending = s.pending := rfl
@[simp] theorem raiseFault_stepsRemaining (c : FaultCode) (s : State) : (raiseFault c s).stepsRemaining = s.stepsRemaining := rfl
@[simp] theorem raiseFault_usRemaining (c : FaultCode) (s : State) : (raiseFault c s).usRemaining = s.usRemaining := rfl
@[simp] theorem raiseFault_prescale (c : FaultCode) (s : State) : (raiseFault c s).prescale = s.prescale := rfl
@[simp] theorem raiseFault_stepCtx (c : FaultCode) (s : State) : (raiseFault c s).stepCtx = s.stepCtx := rfl
@[simp] theorem raiseFault_divCount (c : FaultCode) (s : State) : (raiseFault c s).divCount = s.divCount := rfl
@[simp] theorem raiseFault_ser (c : FaultCode) (s : State) : (raiseFault c s).ser = s.ser := rfl
@[simp] theorem raiseFault_srclk (c : FaultCode) (s : State) : (raiseFault c s).srclk = s.srclk := rfl
@[simp] theorem raiseFault_rclk (c : FaultCode) (s : State) : (raiseFault c s).rclk = s.rclk := rfl
@[simp] theorem raiseFault_oeN (c : FaultCode) (s : State) : (raiseFault c s).oeN = s.oeN := rfl
@[simp] theorem raiseFault_sr (c : FaultCode) (s : State) : (raiseFault c s).sr = s.sr := rfl
@[simp] theorem raiseFault_outQ (c : FaultCode) (s : State) : (raiseFault c s).outQ = s.outQ := rfl
@[simp] theorem raiseFault_pwmCnt (c : FaultCode) (s : State) : (raiseFault c s).pwmCnt = s.pwmCnt := rfl
@[simp] theorem raiseFault_pwmActive (c : FaultCode) (s : State) : (raiseFault c s).pwmActive = s.pwmActive := rfl
@[simp] theorem raiseFault_cmdValid (c : FaultCode) (s : State) : (raiseFault c s).cmdValid = s.cmdValid := rfl
@[simp] theorem raiseFault_cmdWord (c : FaultCode) (s : State) : (raiseFault c s).cmdWord = s.cmdWord := rfl
@[simp] theorem raiseFault_rdAddr (c : FaultCode) (s : State) : (raiseFault c s).rdAddr = s.rdAddr := rfl
@[simp] theorem raiseFault_env (c : FaultCode) (s : State) : (raiseFault c s).env = s.env := rfl
@[simp] theorem raiseFault_events (c : FaultCode) (s : State) : (raiseFault c s).events = s.events := rfl
@[simp] theorem raiseFault_clock (c : FaultCode) (s : State) : (raiseFault c s).clock = s.clock := rfl
@[simp] theorem raiseFault_draws (c : FaultCode) (s : State) : (raiseFault c s).draws = s.draws := rfl

@[simp] theorem raiseFault_fault (c : FaultCode) (s : State) : (raiseFault c s).fault = true := rfl
@[simp] theorem raiseFault_faultCode (c : FaultCode) (s : State) : (raiseFault c s).faultCode = c := rfl
@[simp] theorem raiseFault_faultCmd (c : FaultCode) (s : State) : (raiseFault c s).faultCmd = s.cmdWord := rfl

/-! ### What the serializer pins leave alone -/

@[simp] theorem drivePins_cfg (a b c : Bool) (s : State) : (drivePins a b c s).cfg = s.cfg := rfl
@[simp] theorem drivePins_latchState (a b c : Bool) (s : State) : (drivePins a b c s).latchState = s.latchState := rfl
@[simp] theorem drivePins_duty (a b c : Bool) (s : State) : (drivePins a b c s).duty = s.duty := rfl
@[simp] theorem drivePins_enabled (a b c : Bool) (s : State) : (drivePins a b c s).enabled = s.enabled := rfl
@[simp] theorem drivePins_busy (a b c : Bool) (s : State) : (drivePins a b c s).busy = s.busy := rfl
@[simp] theorem drivePins_fault (a b c : Bool) (s : State) : (drivePins a b c s).fault = s.fault := rfl
@[simp] theorem drivePins_faultCode (a b c : Bool) (s : State) : (drivePins a b c s).faultCode = s.faultCode := rfl
@[simp] theorem drivePins_faultCmd (a b c : Bool) (s : State) : (drivePins a b c s).faultCmd = s.faultCmd := rfl
@[simp] theorem drivePins_dcInit (a b c : Bool) (s : State) : (drivePins a b c s).dcInit = s.dcInit := rfl
@[simp] theorem drivePins_stInit (a b c : Bool) (s : State) : (drivePins a b c s).stInit = s.stInit := rfl
@[simp] theorem drivePins_currentstep (a b c : Bool) (s : State) : (drivePins a b c s).currentstep = s.currentstep := rfl
@[simp] theorem drivePins_revsteps (a b c : Bool) (s : State) : (drivePins a b c s).revsteps = s.revsteps := rfl
@[simp] theorem drivePins_usperstep (a b c : Bool) (s : State) : (drivePins a b c s).usperstep = s.usperstep := rfl
@[simp] theorem drivePins_speedSet (a b c : Bool) (s : State) : (drivePins a b c s).speedSet = s.speedSet := rfl
@[simp] theorem drivePins_result (a b c : Bool) (s : State) : (drivePins a b c s).result = s.result := rfl
@[simp] theorem drivePins_seqState (a b c : Bool) (s : State) : (drivePins a b c s).seqState = s.seqState := rfl
@[simp] theorem drivePins_xferCycle (a b c : Bool) (s : State) : (drivePins a b c s).xferCycle = s.xferCycle := rfl
@[simp] theorem drivePins_xferValue (a b c : Bool) (s : State) : (drivePins a b c s).xferValue = s.xferValue := rfl
@[simp] theorem drivePins_pending (a b c : Bool) (s : State) : (drivePins a b c s).pending = s.pending := rfl
@[simp] theorem drivePins_stepsRemaining (a b c : Bool) (s : State) : (drivePins a b c s).stepsRemaining = s.stepsRemaining := rfl
@[simp] theorem drivePins_usRemaining (a b c : Bool) (s : State) : (drivePins a b c s).usRemaining = s.usRemaining := rfl
@[simp] theorem drivePins_prescale (a b c : Bool) (s : State) : (drivePins a b c s).prescale = s.prescale := rfl
@[simp] theorem drivePins_stepCtx (a b c : Bool) (s : State) : (drivePins a b c s).stepCtx = s.stepCtx := rfl
@[simp] theorem drivePins_divCount (a b c : Bool) (s : State) : (drivePins a b c s).divCount = s.divCount := rfl
@[simp] theorem drivePins_oeN (a b c : Bool) (s : State) : (drivePins a b c s).oeN = s.oeN := rfl
@[simp] theorem drivePins_pwmCnt (a b c : Bool) (s : State) : (drivePins a b c s).pwmCnt = s.pwmCnt := rfl
@[simp] theorem drivePins_pwmActive (a b c : Bool) (s : State) : (drivePins a b c s).pwmActive = s.pwmActive := rfl
@[simp] theorem drivePins_cmdValid (a b c : Bool) (s : State) : (drivePins a b c s).cmdValid = s.cmdValid := rfl
@[simp] theorem drivePins_cmdWord (a b c : Bool) (s : State) : (drivePins a b c s).cmdWord = s.cmdWord := rfl
@[simp] theorem drivePins_rdAddr (a b c : Bool) (s : State) : (drivePins a b c s).rdAddr = s.rdAddr := rfl
@[simp] theorem drivePins_env (a b c : Bool) (s : State) : (drivePins a b c s).env = s.env := rfl
@[simp] theorem drivePins_events (a b c : Bool) (s : State) : (drivePins a b c s).events = s.events := rfl
@[simp] theorem drivePins_clock (a b c : Bool) (s : State) : (drivePins a b c s).clock = s.clock := rfl
@[simp] theorem drivePins_draws (a b c : Bool) (s : State) : (drivePins a b c s).draws = s.draws := rfl

@[simp] theorem drivePins_ser (a b c : Bool) (s : State) : (drivePins a b c s).ser = a := rfl
@[simp] theorem drivePins_srclk (a b c : Bool) (s : State) : (drivePins a b c s).srclk = b := rfl
@[simp] theorem drivePins_rclk (a b c : Bool) (s : State) : (drivePins a b c s).rclk = c := rfl

/-! ### What a PWM tick leaves alone (R160) -/

@[simp] theorem pwmTick_cfg (g : Group) (s : State) : (pwmTick g s).cfg = s.cfg := rfl
@[simp] theorem pwmTick_latchState (g : Group) (s : State) : (pwmTick g s).latchState = s.latchState := rfl
@[simp] theorem pwmTick_duty (g : Group) (s : State) : (pwmTick g s).duty = s.duty := rfl
@[simp] theorem pwmTick_enabled (g : Group) (s : State) : (pwmTick g s).enabled = s.enabled := rfl
@[simp] theorem pwmTick_busy (g : Group) (s : State) : (pwmTick g s).busy = s.busy := rfl
@[simp] theorem pwmTick_fault (g : Group) (s : State) : (pwmTick g s).fault = s.fault := rfl
@[simp] theorem pwmTick_faultCode (g : Group) (s : State) : (pwmTick g s).faultCode = s.faultCode := rfl
@[simp] theorem pwmTick_faultCmd (g : Group) (s : State) : (pwmTick g s).faultCmd = s.faultCmd := rfl
@[simp] theorem pwmTick_dcInit (g : Group) (s : State) : (pwmTick g s).dcInit = s.dcInit := rfl
@[simp] theorem pwmTick_stInit (g : Group) (s : State) : (pwmTick g s).stInit = s.stInit := rfl
@[simp] theorem pwmTick_currentstep (g : Group) (s : State) : (pwmTick g s).currentstep = s.currentstep := rfl
@[simp] theorem pwmTick_revsteps (g : Group) (s : State) : (pwmTick g s).revsteps = s.revsteps := rfl
@[simp] theorem pwmTick_usperstep (g : Group) (s : State) : (pwmTick g s).usperstep = s.usperstep := rfl
@[simp] theorem pwmTick_speedSet (g : Group) (s : State) : (pwmTick g s).speedSet = s.speedSet := rfl
@[simp] theorem pwmTick_result (g : Group) (s : State) : (pwmTick g s).result = s.result := rfl
@[simp] theorem pwmTick_seqState (g : Group) (s : State) : (pwmTick g s).seqState = s.seqState := rfl
@[simp] theorem pwmTick_xferCycle (g : Group) (s : State) : (pwmTick g s).xferCycle = s.xferCycle := rfl
@[simp] theorem pwmTick_xferValue (g : Group) (s : State) : (pwmTick g s).xferValue = s.xferValue := rfl
@[simp] theorem pwmTick_pending (g : Group) (s : State) : (pwmTick g s).pending = s.pending := rfl
@[simp] theorem pwmTick_stepsRemaining (g : Group) (s : State) : (pwmTick g s).stepsRemaining = s.stepsRemaining := rfl
@[simp] theorem pwmTick_usRemaining (g : Group) (s : State) : (pwmTick g s).usRemaining = s.usRemaining := rfl
@[simp] theorem pwmTick_prescale (g : Group) (s : State) : (pwmTick g s).prescale = s.prescale := rfl
@[simp] theorem pwmTick_stepCtx (g : Group) (s : State) : (pwmTick g s).stepCtx = s.stepCtx := rfl
@[simp] theorem pwmTick_divCount (g : Group) (s : State) : (pwmTick g s).divCount = s.divCount := rfl
@[simp] theorem pwmTick_ser (g : Group) (s : State) : (pwmTick g s).ser = s.ser := rfl
@[simp] theorem pwmTick_srclk (g : Group) (s : State) : (pwmTick g s).srclk = s.srclk := rfl
@[simp] theorem pwmTick_rclk (g : Group) (s : State) : (pwmTick g s).rclk = s.rclk := rfl
@[simp] theorem pwmTick_oeN (g : Group) (s : State) : (pwmTick g s).oeN = s.oeN := rfl
@[simp] theorem pwmTick_sr (g : Group) (s : State) : (pwmTick g s).sr = s.sr := rfl
@[simp] theorem pwmTick_outQ (g : Group) (s : State) : (pwmTick g s).outQ = s.outQ := rfl
@[simp] theorem pwmTick_cmdValid (g : Group) (s : State) : (pwmTick g s).cmdValid = s.cmdValid := rfl
@[simp] theorem pwmTick_cmdWord (g : Group) (s : State) : (pwmTick g s).cmdWord = s.cmdWord := rfl
@[simp] theorem pwmTick_rdAddr (g : Group) (s : State) : (pwmTick g s).rdAddr = s.rdAddr := rfl
@[simp] theorem pwmTick_env (g : Group) (s : State) : (pwmTick g s).env = s.env := rfl
@[simp] theorem pwmTick_events (g : Group) (s : State) : (pwmTick g s).events = s.events := rfl
@[simp] theorem pwmTick_clock (g : Group) (s : State) : (pwmTick g s).clock = s.clock := rfl
@[simp] theorem pwmTick_draws (g : Group) (s : State) : (pwmTick g s).draws = s.draws := rfl

end Sys2Proof.Machine
end

