-- ==== Sys2Proof/Laws/Ops.lean ====
section
/-! SUPPORT. One spec lemma per shared operation: everything it can do, for the provers to cite instead of unfolding it. -/

namespace Sys2Proof.Machine

/-! ### Latch bytes (R80) -/

@[simp] theorem mergeBits_zero (old mask : Byte) : mergeBits old mask 0 = old &&& ~~~mask := by
  simp [mergeBits]

/-- A read-modify-write keeps every bit outside the mask when what it sets lies inside it. -/
theorem mergeBits_outside (old mask set : Byte) (h : set &&& ~~~mask = 0) :
    mergeBits old mask set &&& ~~~mask = old &&& ~~~mask := by
  unfold mergeBits
  apply BitVec.eq_of_getLsbD_eq
  intro i hi
  have hb := congrArg (fun b : Byte => b.getLsbD i) h
  simp [hi] at hb ⊢
  cases hm : mask.getLsbD i <;> simp_all

/-- The bits of the mask are the set bits. -/
theorem mergeBits_inside (old mask set : Byte) (h : set &&& ~~~mask = 0) :
    mergeBits old mask set &&& mask = set := by
  unfold mergeBits
  apply BitVec.eq_of_getLsbD_eq
  intro i hi
  have hb := congrArg (fun b : Byte => b.getLsbD i) h
  simp [hi] at hb ⊢
  cases hm : mask.getLsbD i <;> simp_all

/-- A second read-modify-write under the same mask replaces the first. -/
theorem mergeBits_mergeBits (old mask a b : Byte) (h : a &&& ~~~mask = 0) :
    mergeBits (mergeBits old mask a) mask b = mergeBits old mask b := by
  unfold mergeBits
  apply BitVec.eq_of_getLsbD_eq
  intro i hi
  have hb := congrArg (fun b : Byte => b.getLsbD i) h
  simp [hi] at hb ⊢
  cases hm : mask.getLsbD i <;> simp_all

/-! ### A transfer as one operation (R145, R147) -/

/-- `s` with the external register and the pins as a transfer of `v` leaves them, before its updates. -/
def afterPins (v : Byte) (s : State) : State :=
  { s with
    seqState := .idle, xferCycle := 0, xferValue := v, pending := []
    ser := v.getLsbD 0, srclk := true, rclk := true, sr := v, outQ := v }

/-- What `transact` does: the pins and the external register, the updates, one output event, 18 cycles. -/
theorem transact_eq (v : Byte) (ups : List Update) (s : State) :
    transact v ups s =
      { applyAll ups (afterPins v s) with
        events := ⟨v, (applyAll ups (afterPins v s)).duty, eventWait (applyAll ups (afterPins v s))⟩ :: s.events
        clock := s.clock + 18 } := by
  have h : commitEdge (shiftedOut v ups s) =
      { applyAll ups (afterPins v s) with
        events := ⟨(applyAll ups (afterPins v s)).outQ, (applyAll ups (afterPins v s)).duty,
          eventWait (applyAll ups (afterPins v s))⟩ :: (applyAll ups (afterPins v s)).events } := rfl
  have e1 : (applyAll ups (afterPins v s)).outQ = v := by simp [afterPins]
  have e2 : (applyAll ups (afterPins v s)).events = s.events := by simp [afterPins]
  unfold transact
  rw [h, e1, e2]

/-- The plan of a transfer, carried out: `transact` on a busy block. -/
theorem perform_transfer (v : Byte) (ups : List Update) (s : State) :
    perform (.transfer v ups) s = transact v ups { s with busy := true } := rfl

/-- A raised fault, carried out (R262). -/
theorem perform_raise (c : FaultCode) (s : State) : perform (.raise c) s = faulted c s := rfl

/-! ### Checks (R265 to R269): a passed check is no check -/

theorem needEnabled_pass {s : State} (p : Plan) (h : s.enabled = true) : needEnabled s p = p := by
  simp [needEnabled, h]

theorem needMotor_pass {s : State} {n : Motor} (p : Plan) (h : getMotor s.dcInit n = true) :
    needMotor s n p = p := by simp [needMotor, h]

theorem needStepper_pass {s : State} {st : Stepper} (p : Plan) (h : getStepper s.stInit st = true) :
    needStepper s st p = p := by simp [needStepper, h]

theorem needSpeedSet_pass {s : State} {st : Stepper} (p : Plan) (h : getStepper s.speedSet st = true) :
    needSpeedSet s st p = p := by simp [needSpeedSet, h]

theorem needStepDir_pass {dir : Direction} (p : Plan) (h : dir.steps = true) : needStepDir dir p = p := by
  simp [needStepDir, h]

theorem needFree_pass (p : Plan) : needFree true p = p := rfl

theorem motorFree_iff (s : State) (n : Motor) :
    motorFree s n = true ↔ getMotor s.dcInit n = false ∧ getStepper s.stInit (motorStepper n) = false := by
  simp [motorFree]

theorem stepperFree_iff (s : State) (st : Stepper) :
    stepperFree s st = true ↔ getStepper s.stInit st = false ∧ getMotor s.dcInit (coil1 st) = false ∧
      getMotor s.dcInit (coil2 st) = false := by
  simp [stepperFree, and_assoc]

/-! ### The moves of the machine -/

theorem step_without_moves {s : State} (h : s.env = []) : step s = sequencerMove s := by
  simp [step, moveOnce, h]

theorem step_reset {s : State} {rest : List EnvMove} (h : s.env = .reset :: rest) :
    step s = .next (resetEdge { s with env := rest }) := by simp [step, moveOnce, h]

theorem step_clock {s : State} {rest : List EnvMove} (h : s.env = .clock :: rest) :
    step s = .next (clockEdge { s with env := rest }) := by simp [step, moveOnce, h]

theorem step_tick {s : State} {g : Group} {rest : List EnvMove} (h : s.env = .tick g :: rest) :
    step s = .next (pwmTick g { s with env := rest }) := by simp [step, moveOnce, h]

theorem sequencerMove_accept {s : State} (h : accepts s = true) : sequencerMove s = acceptCommand s := by
  simp [sequencerMove, h]

theorem sequencerMove_boundary {s : State} (h : accepts s = false) (hb : atStepBoundary s = true) :
    sequencerMove s = .next (stepMove s) := by simp [sequencerMove, h, hb]

theorem sequencerMove_clock {s : State} (h : accepts s = false) (hb : atStepBoundary s = false) :
    sequencerMove s = .next (clockEdge s) := by simp [sequencerMove, h, hb]

theorem cmdReady_iff (s : State) :
    cmdReady s = true ↔ s.busy = false ∧ s.fault = false ∧ s.seqState = .idle := by
  simp [cmdReady, and_assoc]

theorem accepts_iff (s : State) : accepts s = true ↔ s.cmdValid = true ∧ cmdReady s = true := by
  simp [accepts]

theorem atStepBoundary_iff (s : State) :
    atStepBoundary s = true ↔ s.busy = true ∧ s.seqState = .idle ∧ s.stepsRemaining ≠ 0 := by
  simp [atStepBoundary, and_assoc]

/-- A block that is not idle accepts nothing. -/
theorem accepts_of_active {s : State} (h : s.seqState ≠ .idle) : accepts s = false := by
  simp [accepts, cmdReady, h]

/-- A busy block accepts nothing. -/
theorem accepts_of_busy {s : State} (h : s.busy = true) : accepts s = false := by
  simp [accepts, cmdReady, h]

/-- Where nothing is accepted, an edge is the sequencer's. -/
theorem clockEdge_of_not_accepts {s : State} (h : accepts s = false) :
    clockEdge s = { sequencerEdge s with clock := s.clock + 1 } := by
  simp only [clockEdge, h, Bool.false_eq_true, if_false]

theorem clockEdges_add (m n : Nat) (s : State) :
    clockEdges (m + n) s = clockEdges n (clockEdges m s) := by
  induction m generalizing s with
  | zero => simp [clockEdges]
  | succ m ih => rw [Nat.succ_add]; exact ih _

end Sys2Proof.Machine
end

