-- ==== Sys2Proof/Laws/Step.lean ====
section
/-! SUPPORT. What the sequencer's edges do not read: the host's side of the command port (spec/10_state.md R38). One lemma
for each operation, so that a proof about a closed port unfolds none of them. -/

namespace Sys2Proof.Machine

theorem applyUpdate_port (u : Update) (s : State) (b : Bool) (w : Word) :
    applyUpdate u { s with cmdValid := b, cmdWord := w } =
      { applyUpdate u s with cmdValid := b, cmdWord := w } := by
  cases u <;> try rfl
  simp only [applyUpdate, startWait]; split <;> rfl

theorem applyAll_port (us : List Update) (s : State) (b : Bool) (w : Word) :
    applyAll us { s with cmdValid := b, cmdWord := w } =
      { applyAll us s with cmdValid := b, cmdWord := w } := by
  induction us generalizing s with
  | nil => rfl
  | cons u us ih => rw [applyAll_cons, applyUpdate_port, ih]; rfl

theorem commitEdge_port (s : State) (b : Bool) (w : Word) :
    commitEdge { s with cmdValid := b, cmdWord := w } =
      { commitEdge s with cmdValid := b, cmdWord := w } := by
  unfold commitEdge
  have := applyAll_port s.pending
    { drivePins s.ser s.srclk true s with seqState := .idle, xferCycle := 0, pending := [] } b w
  simp only [drivePins] at this ⊢
  rw [this]; rfl

theorem idleEdge_port (s : State) (b : Bool) (w : Word) :
    idleEdge { s with cmdValid := b, cmdWord := w } = { idleEdge s with cmdValid := b, cmdWord := w } := by
  unfold idleEdge; dsimp only; split <;> [split; skip] <;> rfl

theorem xferEdge_port (s : State) (b : Bool) (w : Word) :
    xferEdge { s with cmdValid := b, cmdWord := w } = { xferEdge s with cmdValid := b, cmdWord := w } := by
  unfold xferEdge; dsimp only; split
  · exact commitEdge_port s b w
  · split <;> rfl

theorem waitEdge_port (s : State) (b : Bool) (w : Word) :
    waitEdge { s with cmdValid := b, cmdWord := w } = { waitEdge s with cmdValid := b, cmdWord := w } := by
  unfold waitEdge; dsimp only; split <;> [split; skip] <;> rfl

theorem divEdge_port (s : State) (b : Bool) (w : Word) :
    divEdge { s with cmdValid := b, cmdWord := w } = { divEdge s with cmdValid := b, cmdWord := w } := by
  unfold divEdge finishDivide; dsimp only; split
  · rw [applyAll_port]
  · rfl

/-- The sequencer's edges neither read nor write the command port. -/
theorem sequencerEdge_port (s : State) (b : Bool) (w : Word) :
    sequencerEdge { s with cmdValid := b, cmdWord := w } =
      { sequencerEdge s with cmdValid := b, cmdWord := w } := by
  have h1 := idleEdge_port s b w
  have h2 := xferEdge_port s b w
  have h3 := waitEdge_port s b w
  have h4 := divEdge_port s b w
  unfold sequencerEdge; dsimp only; split <;> assumption

/-- A step of a running STEP neither reads nor writes the command port. -/
theorem stepMove_port (s : State) (b : Bool) (w : Word) :
    stepMove { s with cmdValid := b, cmdWord := w } = { stepMove s with cmdValid := b, cmdWord := w } := by
  unfold stepMove transact
  have h := commitEdge_port (shiftedOut (runningByte s) (runningUpdates s) s) b w
  have e : shiftedOut (runningByte { s with cmdValid := b, cmdWord := w })
      (runningUpdates { s with cmdValid := b, cmdWord := w }) { s with cmdValid := b, cmdWord := w } =
      { shiftedOut (runningByte s) (runningUpdates s) s with cmdValid := b, cmdWord := w } := rfl
  rw [e, h]
  simp only [finishWait]
  cases (commitEdge (shiftedOut (runningByte s) (runningUpdates s) s)).seqState <;> rfl

end Sys2Proof.Machine
end

