-- ==== Sys2Proof/Laws/Clock.lean ====
section
/-! SUPPORT. What the clock edges of a transfer and of a wait add up to (spec/40_latch_pwm.md R145 to R149;
spec/42_stepper.md R232): one lemma for each, cited instead of unfolding the edges. -/

namespace Sys2Proof.Machine

theorem clockEdges_succ (n : Nat) (s : State) : clockEdges (n + 1) s = clockEdge (clockEdges n s) := by
  rw [clockEdges_add]; rfl

/-- An edge in a transfer. -/
theorem clockEdge_xfer {s : State} (h : s.seqState = .xfer) :
    clockEdge s = { xferEdge s with clock := s.clock + 1 } := by
  rw [clockEdge_of_not_accepts (accepts_of_active (by simp [h]))]
  simp [sequencerEdge, h]

/-- An edge in a wait. -/
theorem clockEdge_wait {s : State} (h : s.seqState = .wait) :
    clockEdge s = { waitEdge s with clock := s.clock + 1 } := by
  rw [clockEdge_of_not_accepts (accepts_of_active (by simp [h]))]
  simp [sequencerEdge, h]

/-- `s` at edge offset `k` of `Transfer(v)`, for `k ≤ 16`: the top `k / 2` bits of `v` are in `sr` (R145, R146). -/
def xferAt (v : Byte) (ups : List Update) (k : Nat) (s : State) : State :=
  { s with
    seqState := .xfer
    xferCycle := k
    xferValue := v
    pending := ups
    ser := if k = 0 then false else v.getLsbD (7 - (k - 1) / 2)
    srclk := if k = 0 then s.srclk else decide (k % 2 = 0)
    rclk := false
    sr := (s.sr <<< (k / 2)) ||| (v >>> (8 - k / 2))
    clock := s.clock + k }

/-- One more bit shifted in. -/
theorem shiftIn_next (x v : Byte) (i : Nat) (h : i < 8) :
    shiftIn ((x <<< i) ||| (v >>> (8 - i))) (v.getLsbD (7 - i)) =
      (x <<< (i + 1)) ||| (v >>> (8 - (i + 1))) := by
  apply BitVec.eq_of_getLsbD_eq
  intro j hj
  rcases i with _ | _ | _ | _ | _ | _ | _ | _ | i <;> try omega
  all_goals
    rcases j with _ | _ | _ | _ | _ | _ | _ | _ | j <;> try omega
    all_goals simp [shiftIn]

theorem startTransfer_eq (v : Byte) (ups : List Update) (s : State) :
    startTransfer v ups s = xferAt v ups 0 s := by
  have h : v >>> 8 = 0#8 := by
    apply BitVec.eq_of_getLsbD_eq; intro j hj; simp
  simp [startTransfer, xferAt, drivePins, h]

/-- The first sixteen edges of a transfer (R145, R146). -/
theorem clockEdges_transfer (v : Byte) (ups : List Update) (s : State) (k : Nat) (h : k ≤ 16) :
    clockEdges k (startTransfer v ups s) = xferAt v ups k s := by
  induction k with
  | zero => exact startTransfer_eq v ups s
  | succ k ih =>
    rw [clockEdges_succ, ih (by omega), clockEdge_xfer rfl]
    have h17 : ¬ 17 ≤ k + 1 := by omega
    simp only [xferEdge, xferAt, h17, if_false]
    rcases Nat.even_or_odd' k with ⟨i, rfl | rfl⟩
    · have e1 : (2 * i + 1) % 2 = 1 := by omega
      have e2 : (2 * i + 1) / 2 = i := by omega
      have e3 : 2 * i / 2 = i := by omega
      simp [drivePins, e1, e2, e3, Nat.add_assoc]
    · have e1 : (2 * i + 1) % 2 = 1 := by omega
      have e2 : (2 * i + 1 + 1) % 2 = 0 := by omega
      have e3 : (2 * i + 1) / 2 = i := by omega
      have e4 : (2 * i + 1 + 1) / 2 = i + 1 := by omega
      have e5 : 2 * i / 2 = i := by omega
      have e6 : 7 - i = 7 - i := rfl
      have := shiftIn_next s.sr v i (by omega)
      simp [drivePins, e1, e2, e3, e4, e5, Nat.add_assoc, this]

theorem xferAt_sixteen (v : Byte) (ups : List Update) (s : State) :
    xferAt v ups 16 s = { shiftedOut v ups s with clock := s.clock + 16 } := by
  have h : s.sr <<< 8 = 0#8 := by
    apply BitVec.eq_of_getLsbD_eq; intro j hj; simp [hj]
  simp [xferAt, shiftedOut, h]

/-- The clock does not matter to a commit. -/
theorem applyAll_withClock (us : List Update) (s : State) (n : Nat) :
    applyAll us { s with clock := n } = { applyAll us s with clock := n } := by
  induction us generalizing s with
  | nil => rfl
  | cons u us ih =>
    have : applyUpdate u { s with clock := n } = { applyUpdate u s with clock := n } := by
      cases u <;> try rfl
      simp only [applyUpdate, startWait]; split <;> rfl
    rw [applyAll_cons, this, ih]; rfl

theorem commitEdge_clock (s : State) (n : Nat) :
    commitEdge { s with clock := n } = { commitEdge s with clock := n } := by
  unfold commitEdge
  have := applyAll_withClock s.pending
    { drivePins s.ser s.srclk true s with seqState := .idle, xferCycle := 0, pending := [] } n
  simp only [drivePins] at this ⊢
  rw [this]; rfl

/-- A whole transfer: from edge `T`, seventeen more edges leave what `transact` leaves (R145, R147). -/
theorem clockEdges_transact (v : Byte) (ups : List Update) (s : State) :
    clockEdges 17 (startTransfer v ups s) = { transact v ups s with clock := s.clock + 17 } := by
  rw [clockEdges_succ, clockEdges_transfer v ups s 16 (by omega), xferAt_sixteen, clockEdge_xfer rfl]
  simp only [xferEdge, shiftedOut]
  rw [if_pos (by omega)]
  have := commitEdge_clock (shiftedOut v ups s) (s.clock + 16)
  simp only [shiftedOut] at this
  rw [this]
  rfl

/-- `s`, a wait that has just started, `j` edges on (R232). -/
def waitAt (j : Nat) (s : State) : State :=
  { s with
    usRemaining := BitVec.ofNat 32 (s.usRemaining.toNat - j / cycPerUs s.cfg)
    prescale := j % cycPerUs s.cfg
    clock := s.clock + j }

/-- A wait from its start: at edge `j` before its end (R232). -/
theorem clockEdges_wait (s : State) (j : Nat) (hc : 0 < cycPerUs s.cfg) (hw : s.seqState = .wait)
    (hp : s.prescale = 0) (hj : j < s.usRemaining.toNat * cycPerUs s.cfg) :
    clockEdges j s = waitAt j s := by
  induction j with
  | zero =>
    have : waitAt 0 s = s := by cases s; simp_all [waitAt]
    rw [this]; rfl
  | succ j ih =>
    rw [clockEdges_succ, ih (by omega), clockEdge_wait (s := waitAt j s) hw]
    have hu := s.usRemaining.isLt
    have hq : j / cycPerUs s.cfg < s.usRemaining.toNat := by
      rw [Nat.div_lt_iff_lt_mul hc]; omega
    have hm := Nat.mod_lt j hc
    have hd := Nat.div_add_mod j (cycPerUs s.cfg)
    simp only [waitEdge, waitAt]
    by_cases hz : j % cycPerUs s.cfg = cycPerUs s.cfg - 1
    · have hmod : (j + 1) % cycPerUs s.cfg = 0 := by
        have : j + 1 = cycPerUs s.cfg * (j / cycPerUs s.cfg + 1) := by
          rw [Nat.mul_add]; omega
        rw [this]; exact Nat.mul_mod_right _ _
      have hdiv : (j + 1) / cycPerUs s.cfg = j / cycPerUs s.cfg + 1 := by
        have : j + 1 = cycPerUs s.cfg * (j / cycPerUs s.cfg + 1) := by
          rw [Nat.mul_add]; omega
        rw [this]; exact Nat.mul_div_cancel_left _ hc
      have hlt : j / cycPerUs s.cfg + 1 < s.usRemaining.toNat := by
        rw [← hdiv, Nat.div_lt_iff_lt_mul hc]; omega
      have hle : ¬ BitVec.ofNat 32 (s.usRemaining.toNat - j / cycPerUs s.cfg) ≤ 1 := by
        generalize j / cycPerUs s.cfg = q at hlt
        rw [BitVec.le_def]; simp; omega
      have hsub : BitVec.ofNat 32 (s.usRemaining.toNat - j / cycPerUs s.cfg) - 1 =
          BitVec.ofNat 32 (s.usRemaining.toNat - (j / cycPerUs s.cfg + 1)) := by
        generalize j / cycPerUs s.cfg = q at hlt
        apply BitVec.eq_of_toNat_eq
        simp
        omega
      simp only [hz, if_true, hle, if_false, hmod, hdiv, hsub]
      rfl
    · have hmod : (j + 1) % cycPerUs s.cfg = j % cycPerUs s.cfg + 1 := by
        rw [Nat.add_mod, Nat.mod_eq_of_lt (a := j % cycPerUs s.cfg + 1 % cycPerUs s.cfg)]
        · rw [Nat.mod_eq_of_lt (a := 1)]; omega
        · rw [Nat.mod_eq_of_lt (a := 1)] <;> omega
      have hdiv : (j + 1) / cycPerUs s.cfg = j / cycPerUs s.cfg := by
        have : j + 1 = (j % cycPerUs s.cfg + 1) + cycPerUs s.cfg * (j / cycPerUs s.cfg) := by omega
        rw [this, Nat.add_mul_div_left _ _ hc, Nat.div_eq_of_lt (by omega), Nat.zero_add]
      simp only [hz, if_false, hmod, hdiv]
      rfl

/-- The last edge of a wait (R232). -/
theorem clockEdges_wholeWait (s : State) (hc : 0 < cycPerUs s.cfg) (hw : s.seqState = .wait)
    (hp : s.prescale = 0) (hu : 0 < s.usRemaining.toNat) :
    clockEdges (s.usRemaining.toNat * cycPerUs s.cfg) s = finishWait s := by
  have hpos := Nat.mul_pos hu hc
  obtain ⟨j, hj⟩ : ∃ j, s.usRemaining.toNat * cycPerUs s.cfg = j + 1 := ⟨_, (Nat.succ_pred_eq_of_pos hpos).symm⟩
  have hlt := s.usRemaining.isLt
  obtain ⟨q, hq⟩ : ∃ q, s.usRemaining.toNat = q + 1 := ⟨_, (Nat.succ_pred_eq_of_pos hu).symm⟩
  have he : j = (cycPerUs s.cfg - 1) + cycPerUs s.cfg * q := by
    rw [hq, Nat.add_mul, Nat.mul_comm] at hj; omega
  have hdiv : j / cycPerUs s.cfg = q := by
    rw [he, Nat.add_mul_div_left _ _ hc, Nat.div_eq_of_lt (by omega), Nat.zero_add]
  have hmod : j % cycPerUs s.cfg = cycPerUs s.cfg - 1 := by
    rw [he, Nat.add_mul_mod_self_left, Nat.mod_eq_of_lt (by omega)]
  rw [hj, clockEdges_succ, clockEdges_wait s j hc hw hp (by omega), clockEdge_wait (s := waitAt j s) hw]
  have hle : BitVec.ofNat 32 (s.usRemaining.toNat - q) ≤ 1 := by
    rw [BitVec.le_def]; simp; omega
  simp only [waitEdge, waitAt, hdiv, hmod, if_true, hle, finishWait, hw, waitCycles, endWait, hj]
  rfl

end Sys2Proof.Machine
end

