-- ==== Sys2Proof/Laws/PerInstr.lean ====
section
/-! SUPPORT. The family FixedBits: for every command, the bits its row of spec/30_encoding.md R110 fixes are what the
`match` column says, whatever the operands are (R106). One lemma for each constructor of `Instr`. -/

namespace Sys2Proof.Laws.FixedBits

/-- The word of `i` has the fixed bits of its row. -/
def Statement (i : Instr) : Prop := encode i &&& i.op.maskBits = i.op.matchBits

/-- The immediate field stands alone in the low half of the word (R101). -/
theorem wordOf_imm (op : BitVec 4) (x y z : BitVec 3) (m : Half) :
    wordOf op x y z m = wordOf op x y z 0 ||| m.setWidth 32 := by
  apply BitVec.eq_of_getLsbD_eq
  intro i hi
  have hz : (0 : Half).getLsbD i = false := BitVec.getLsbD_zero
  simp only [wordOf, BitVec.getLsbD_append, BitVec.getLsbD_or, BitVec.getLsbD_setWidth, hi, decide_true,
    Bool.true_and]
  by_cases h : i < 16
  · simp only [h, if_true, hz, Bool.false_or]
  · have hm : m.getLsbD i = false := BitVec.getLsbD_of_ge _ _ (by omega)
    simp only [h, if_false, hm, Bool.or_false]

/-- A mask that fixes no bit of the immediate, and a word whose other bits it fixes right. -/
theorem fixed {op : BitVec 4} {x y z : BitVec 3} {m : Half} {mask val : Word}
    (hm : m.setWidth 32 &&& mask = 0) (h : wordOf op x y z 0 &&& mask = val) :
    wordOf op x y z m &&& mask = val := by
  rw [wordOf_imm, BitVec.and_comm, BitVec.and_or_distrib_left, BitVec.and_comm mask, BitVec.and_comm mask, hm, h]
  simp

/-- A mask with a low half of zeros fixes no bit of a 16-bit immediate. -/
theorem imm16_free (m : Half) (hi : Half) : m.setWidth 32 &&& (hi ++ 0#16 : Word) = 0 := by
  apply BitVec.eq_of_getLsbD_eq
  intro i hi
  simp only [BitVec.getLsbD_append, BitVec.getLsbD_and, BitVec.getLsbD_setWidth, BitVec.getLsbD_zero]
  by_cases h : i < 16
  · simp [h]
  · simp [h, BitVec.getLsbD_of_ge m i (by omega)]

/-- A mask with a low byte of zeros fixes no bit of an 8-bit immediate (R102). -/
theorem imm8_free (v : Byte) (hi : BitVec 24) : (imm8 v).setWidth 32 &&& (hi ++ 0#8 : Word) = 0 := by
  apply BitVec.eq_of_getLsbD_eq
  intro i hi
  simp only [BitVec.getLsbD_append, BitVec.getLsbD_and, BitVec.getLsbD_setWidth, BitVec.getLsbD_zero, imm8]
  by_cases h : i < 8
  · simp [h]
  · simp [h, BitVec.getLsbD_of_ge v i (by omega)]

theorem enable : Statement .enable := rfl

theorem writeLatch (v : Byte) : Statement (.writeLatch v) := fixed (imm8_free v 0xFFFFFF) (by simp only [Instr.op]; decide)

theorem setDuty (ch : Channel) (v : Byte) : Statement (.setDuty ch v) := by
  cases ch <;> exact fixed (imm8_free v 0xF1FFFF) (by simp only [Instr.op]; decide)

theorem dcInit (n : Motor) : Statement (.dcInit n) := by cases n <;> rfl

theorem dcRun (n : Motor) (dir : Direction) : Statement (.dcRun n dir) := by cases n <;> cases dir <;> rfl

theorem dcSpeed (n : Motor) (v : Byte) : Statement (.dcSpeed n v) := by
  cases n <;> exact fixed (imm8_free v 0xF1FFFF) (by simp only [Instr.op]; decide)

theorem stepperInit (st : Stepper) (rs : Half) : Statement (.stepperInit st rs) := by
  cases st <;> exact fixed (imm16_free rs 0xF1FF) (by simp only [Instr.op]; decide)

theorem stepperSpeed (st : Stepper) (rpm : Half) : Statement (.stepperSpeed st rpm) := by
  cases st <;> exact fixed (imm16_free rpm 0xF1FF) (by simp only [Instr.op]; decide)

theorem onestep (st : Stepper) (dir : Direction) (sty : Style) : Statement (.onestep st dir sty) := by
  cases st <;> cases dir <;> cases sty <;> rfl

theorem step (st : Stepper) (n : Half) (dir : Direction) (sty : Style) : Statement (.step st n dir sty) := by
  cases st <;> cases dir <;> cases sty <;> exact fixed (imm16_free n 0xF007) (by simp only [Instr.op]; decide)

theorem release (st : Stepper) : Statement (.release st) := by cases st <;> rfl

end Sys2Proof.Laws.FixedBits
end

