-- ==== Sys2Proof/Laws/Plan.lean ====
section
/-! SUPPORT. What a command can do, said once: the kinds of plan (spec/00_scope.md R15), what carrying one out means, and
the small facts about phases and good states that every case of an invariant proof cites. -/

namespace Sys2Proof.Machine

/-- Every command is its plan, carried out as one transaction. -/
theorem exec_eq_perform (i : Instr) (s : State) : exec i s = .next (perform (planOf i s) s) := by
  cases i <;> rfl

/-- The kinds of plan a command can have. -/
theorem plan_kinds (i : Instr) (s : State) :
    (∃ c, planOf i s = .raise c ∧ c ≠ .none) ∨
    (∃ ch v, planOf i s = .instant [.duty ch v]) ∨
    planOf i s = .instant [] ∨
    (∃ v ups, planOf i s = .transfer v ups) ∨
    planOf i s = .enable ∨
    (∃ st v, planOf i s = .divide [.usperstep st v, .speedSet st true]) ∨
    (∃ ctx n, n ≠ 0 ∧ planOf i s = .steps ctx n ∧ s.enabled = true) := by
  cases i <;> simp [planOf, planEnable, planWriteLatch, planSetDuty, planDcInit, planDcRun, planDcSpeed,
    planStepperInit, planStepperSpeed, planOnestep, planStep, planRelease, needEnabled, needMotor, needStepper,
    needFree, needSpeed, needSpeedSet, needStepDir] <;> (repeat' split) <;> simp_all

/-- The plan of a command does not look at the command port. -/
theorem planOf_port (i : Instr) (s : State) (b : Bool) (w : Word) :
    planOf i { s with cmdValid := b, cmdWord := w } = planOf i s := by
  cases i <;> rfl

/-- A whole STEP lasts `n` times its first step with its wait (R234). -/
theorem durationCycles_steps (ctx : StepCtx) (n : Half) (s : State) :
    durationCycles (.steps ctx n) s = n.toNat * planCycles (.steps ctx n) s := rfl

/-- Any other command is over with its one transaction (R320). -/
theorem durationCycles_single {p : Plan} (h : ∀ ctx n, p ≠ .steps ctx n) (s : State) :
    durationCycles p s = planCycles p s := by
  cases p <;> first | rfl | exact absurd rfl (h _ _)

/-- There are 32 or 64 phases (R4, R201). -/
theorem phases_cases (c : Params) : phases c = 32 ∨ phases c = 64 := by
  unfold phases microsteps; cases c.resolution <;> simp

/-- A stride leads to a phase in range, wherever it starts (R201, R214). -/
theorem nextPhase_lt (c : Params) (dir : Direction) (sty : Style) (p : Byte) :
    (nextPhase c dir sty p).toNat < phases c := by
  have hc := phases_cases c
  have h : ∀ x, (BitVec.ofNat 8 (x % phases c)).toNat < phases c := by
    intro x
    have := Nat.mod_lt x (show phases c > 0 by omega)
    simp; omega
  cases dir <;> exact h _

/-- A legal clock has at least one cycle in a microsecond (R12). -/
theorem cycPerUs_pos {c : Params} (h : Legal c) : 0 < cycPerUs c := by
  have := h.clock; unfold cycPerUs; omega

/-- A good block that is ready has no step left to make and nothing in flight. -/
theorem ready_quiet {s : State} (hg : Good s) (hr : cmdReady s = true) :
    s.stepsRemaining = 0 ∧ s.usRemaining = 0 ∧ s.divCount = 0 ∧ s.pending = [] := by
  obtain ⟨hb, _, hs⟩ := (cmdReady_iff s).1 hr
  refine ⟨?_, hg.waitOnly (by simp [hs]), hg.divideOnly (by simp [hs]), hg.pendingOnly (Or.inl hs)⟩
  by_contra h
  simp [hg.stepsBusy h] at hb

/-- The ghost clock is no part of what makes a state good. -/
theorem good_withClock {s : State} (n : Nat) (h : Good s) : Good { s with clock := n } := by
  obtain ⟨h1, h2, h3, h4, h5, h6, h7, h8, h9, h10, h11, h12, h13, h14, h15, h16⟩ := h
  exact ⟨h1, h2, h3, h4, h5, h6, h7, h8, h9, h10, h11, h12, h13, h14, h15, h16⟩

/-- A good idle or waiting block meets the invariant: nothing is in flight. -/
theorem inv_of_quiet {s : State} (hg : Good s) (h : s.seqState = .idle ∨ s.seqState = .wait) : Inv s := by
  refine ⟨hg, ?_, ?_, ?_⟩ <;> intro hh <;> simp [hh] at h

/-! ### Owners (R24, R33) -/

theorem bit_disjoint : ∀ {a b : Fin 8}, a ≠ b → bit a &&& bit b = 0 := by decide

/-- Two different slots have no latch bit in common when the layout is a bijection (R24). -/
theorem maskDC_disjoint {c : Params} (h : (latchBits c).Nodup) {n m : Motor} (hne : n ≠ m) :
    maskDC c n &&& maskDC c m = 0 := by
  have hd : ∀ {a b a' b' : Fin 8}, a ≠ a' → a ≠ b' → b ≠ a' → b ≠ b' →
      (bit a ||| bit b) &&& (bit a' ||| bit b') = 0 := by
    intro a b a' b' h1 h2 h3 h4
    rw [BitVec.and_or_distrib_left, BitVec.and_comm, BitVec.and_comm _ (bit b'), BitVec.and_or_distrib_left,
      BitVec.and_or_distrib_left, bit_disjoint (Ne.symm h1), bit_disjoint (Ne.symm h2), bit_disjoint (Ne.symm h3),
      bit_disjoint (Ne.symm h4)]
    rfl
  simp only [latchBits, List.nodup_cons, List.mem_cons, List.not_mem_nil, or_false, not_or, not_false_eq_true,
    List.nodup_nil, and_true] at h
  obtain ⟨⟨_, _, _, _, _, _, _⟩, ⟨_, _, _, _, _, _⟩, ⟨_, _, _, _, _⟩, ⟨_, _, _, _⟩, ⟨_, _, _⟩, ⟨_, _⟩, _⟩ := h
  cases n <;> cases m <;> first | exact absurd rfl hne | apply hd
  all_goals first | assumption | (apply Ne.symm; assumption)

/-- `SingleOwners` in the words of R33: no channel has two constructed owners. -/
theorem singleOwners_channels {s : State} (h : SingleOwners s) {o p : Owner} (hne : o ≠ p)
    (ho : constructed s o = true) (hp : constructed s p = true) (ch : Channel) :
    ¬ (ownsChannel o ch = true ∧ ownsChannel p ch = true) := by
  have h1 := h .s1
  have h2 := h .s2
  rcases o with n | st <;> rcases p with m | st'
  · cases n <;> cases m <;> cases ch <;> simp_all [ownsChannel, motorChannel]
  · cases n <;> cases st' <;> cases ch <;>
      simp_all [ownsChannel, motorChannel, constructed, chA, chB, coil1, coil2]
  · cases st <;> cases m <;> cases ch <;>
      simp_all [ownsChannel, motorChannel, constructed, chA, chB, coil1, coil2]
  · cases st <;> cases st' <;> cases ch <;> simp_all [ownsChannel, motorChannel, chA, chB, coil1, coil2]

/-- `SingleOwners` in the words of R33: in a legal layout no latch bit has two constructed owners. -/
theorem singleOwners_bits {s : State} (h : SingleOwners s) (hl : (latchBits s.cfg).Nodup) {o p : Owner} (hne : o ≠ p)
    (ho : constructed s o = true) (hp : constructed s p = true) : ownerMask s.cfg o &&& ownerMask s.cfg p = 0 := by
  have hd : ∀ {n m : Motor}, n ≠ m → maskDC s.cfg n &&& maskDC s.cfg m = 0 := fun hne => maskDC_disjoint hl hne
  have hc : ∀ {n m k : Motor}, n ≠ m → n ≠ k → maskDC s.cfg n &&& (maskDC s.cfg m ||| maskDC s.cfg k) = 0 := by
    intro n m k h1 h2
    rw [BitVec.and_or_distrib_left, hd h1, hd h2]; rfl
  have h1 := h .s1
  have h2 := h .s2
  rcases o with n | st <;> rcases p with m | st'
  · exact hd (by rintro rfl; exact hne rfl)
  · cases n <;> cases st' <;>
      first
        | (simp_all [constructed, coil1, coil2]; done)
        | exact hc (by decide) (by decide)
  · rw [BitVec.and_comm]
    cases m <;> cases st <;>
      first
        | (simp_all [constructed, coil1, coil2]; done)
        | exact hc (by decide) (by decide)
  · cases st <;> cases st' <;> first | exact absurd rfl hne | skip
    all_goals
      show (maskDC s.cfg _ ||| maskDC s.cfg _) &&& (maskDC s.cfg _ ||| maskDC s.cfg _) = 0
      rw [BitVec.and_comm, BitVec.and_or_distrib_left, BitVec.and_comm, hc (by decide) (by decide), BitVec.and_comm,
        hc (by decide) (by decide)]
      rfl

end Sys2Proof.Machine
end

