-- ==== Sys2Proof/Machine/Assembler.lean ====
section
/-! DEFINITION. The assembly text of a command (spec/30_encoding.md R112) and the four pseudo-commands (R113). It is the
host's notation: no step of the machine reads it. A line that R112 gives no command is refused. -/

namespace Sys2Proof.Machine

/-! ### Characters -/

/-- The value of a decimal digit. -/
def decDigit (c : Char) : Option Nat :=
  if 48 ≤ c.toNat ∧ c.toNat ≤ 57 then some (c.toNat - 48) else none

/-- The value of a hexadecimal digit. -/
def hexDigit (c : Char) : Option Nat :=
  if 48 ≤ c.toNat ∧ c.toNat ≤ 57 then some (c.toNat - 48)
  else if 65 ≤ c.toNat ∧ c.toNat ≤ 70 then some (c.toNat - 55)
  else if 97 ≤ c.toNat ∧ c.toNat ≤ 102 then some (c.toNat - 87)
  else none

/-- A numeral in base `b`, the digits read so far being worth `acc`. -/
def digits (b : Nat) (digit : Char → Option Nat) (acc : Nat) : List Char → Option Nat
  | [] => some acc
  | c :: cs =>
    match digit c with
    | some d => digits b digit (acc * b + d) cs
    | none => none

/-- A decimal numeral of at least one digit. -/
def decimal (t : List Char) : Option Nat :=
  match t with
  | [] => none
  | c :: cs => digits 10 decDigit 0 (c :: cs)

/-- What stands after the `#` of an immediate: a decimal numeral, or a hexadecimal one after `0x` (R112). -/
def numeral (t : List Char) : Option Nat :=
  match t with
  | '0' :: 'x' :: c :: cs => digits 16 hexDigit 0 (c :: cs)
  | _ => decimal t

/-- The characters between the parts of a line (PRESUMED, log entry 16). -/
def isBlank (c : Char) : Bool := decide (c = ' ') || decide (c = '\t') || decide (c = '\r')

/-- A text without the blanks around it. -/
def trim (t : List Char) : List Char := ((t.dropWhile isBlank).reverse.dropWhile isBlank).reverse

/-- The parts of a text between the characters `sep`; `acc` holds the part being read, reversed. -/
def parts (sep : Char) (acc : List Char) : List Char → List (List Char)
  | [] => [acc.reverse]
  | c :: cs => if c = sep then acc.reverse :: parts sep [] cs else parts sep (c :: acc) cs

/-! ### Operands (R103 to R105, R112) -/

/-- A slot or channel number: a plain decimal numeral that fits the `IDX` field. -/
def asmIdx (t : List Char) : Option (BitVec 3) :=
  (decimal t).bind fun n => if n < 8 then some (BitVec.ofNat 3 n) else none

/-- A DC motor slot. -/
def asmMotor (t : List Char) : Option Motor := (asmIdx t).bind Motor.ofIdx

/-- A stepper slot. -/
def asmStepper (t : List Char) : Option Stepper := (asmIdx t).bind Stepper.ofIdx

/-- A PWM channel. -/
def asmChannel (t : List Char) : Option Channel := (asmIdx t).bind Channel.ofIdx

/-- An immediate `#v` of `w` bits; one that does not fit its field is refused. -/
def asmImm (w : Nat) (t : List Char) : Option (BitVec w) :=
  match t with
  | '#' :: v => (numeral v).bind fun n => if n < 2 ^ w then some (BitVec.ofNat w n) else none
  | _ => none

/-- A direction by name. -/
def asmDirection (t : List Char) : Option Direction :=
  if t = "FORWARD".toList then some .forward
  else if t = "BACKWARD".toList then some .backward
  else if t = "BRAKE".toList then some .brake
  else if t = "RELEASE".toList then some .release
  else none

/-- A stepper's direction by name: FORWARD or BACKWARD. -/
def asmStepDirection (t : List Char) : Option Direction :=
  (asmDirection t).bind fun dir => if dir.steps then some dir else none

/-- A style by name. -/
def asmStyle (t : List Char) : Option Style :=
  if t = "SINGLE".toList then some .single
  else if t = "DOUBLE".toList then some .double
  else if t = "INTERLEAVE".toList then some .interleave
  else if t = "MICROSTEP".toList then some .microstep
  else none

/-! ### Lines (R112, R113) -/

/-- `ENABLE`: a command without operands. -/
def asmNone (i : Instr) (ops : List (List Char)) : Option Instr :=
  match ops with
  | [] => some i
  | _ => none

/-- A command of one operand. -/
def asmOne {α : Type} (pa : List Char → Option α) (mk : α → Instr) (ops : List (List Char)) : Option Instr :=
  match ops with
  | [a] => (pa a).map mk
  | _ => none

/-- A command of two operands. -/
def asmTwo {α β : Type} (pa : List Char → Option α) (pb : List Char → Option β) (mk : α → β → Instr)
    (ops : List (List Char)) : Option Instr :=
  match ops with
  | [a, b] => (pa a).bind fun x => (pb b).map (mk x)
  | _ => none

/-- ONESTEP's three operands. -/
def asmOnestep (ops : List (List Char)) : Option Instr :=
  match ops with
  | [a, b, c] =>
    (asmStepper a).bind fun st => (asmStepDirection b).bind fun dir => (asmStyle c).map fun sty =>
      .onestep st dir sty
  | _ => none

/-- STEP's four operands. -/
def asmStep (ops : List (List Char)) : Option Instr :=
  match ops with
  | [a, n, b, c] =>
    (asmStepper a).bind fun st => (asmImm 16 n).bind fun steps => (asmStepDirection b).bind fun dir =>
      (asmStyle c).map fun sty => .step st steps dir sty
  | _ => none

/-- A mnemonic with its operands, the pseudo-commands of R113 among them. -/
def asmCommand (m : List Char) (ops : List (List Char)) : Option Instr :=
  if m = "ENABLE".toList then asmNone .enable ops
  else if m = "WRITE_LATCH".toList then asmOne (asmImm 8) .writeLatch ops
  else if m = "SET_DUTY".toList then asmTwo asmChannel (asmImm 8) .setDuty ops
  else if m = "DC_INIT".toList then asmOne asmMotor .dcInit ops
  else if m = "DC_RUN".toList then asmTwo asmMotor asmDirection .dcRun ops
  else if m = "DC_SPEED".toList then asmTwo asmMotor (asmImm 8) .dcSpeed ops
  else if m = "STEPPER_INIT".toList then asmTwo asmStepper (asmImm 16) .stepperInit ops
  else if m = "STEPPER_SPEED".toList then asmTwo asmStepper (asmImm 16) .stepperSpeed ops
  else if m = "ONESTEP".toList then asmOnestep ops
  else if m = "STEP".toList then asmStep ops
  else if m = "RELEASE".toList then asmOne asmStepper .release ops
  else if m = "DC_FORWARD".toList then asmOne asmMotor (.dcRun · .forward) ops
  else if m = "DC_BACKWARD".toList then asmOne asmMotor (.dcRun · .backward) ops
  else if m = "DC_BRAKE".toList then asmOne asmMotor (.dcRun · .brake) ops
  else if m = "DC_RELEASE".toList then asmOne asmMotor (.dcRun · .release) ops
  else none

/-- The operands of a line: none, or texts separated by commas. -/
def asmOperands (t : List Char) : List (List Char) :=
  match trim t with
  | [] => []
  | c :: cs => (parts ',' [] (c :: cs)).map trim

/-- One line: a `;` starts a comment, a line with nothing else is no command (`some none`), any other line is one command
or is refused (`none`). -/
def asmLine (line : List Char) : Option (Option Instr) :=
  match trim (line.takeWhile fun c => !decide (c = ';')) with
  | [] => some none
  | c :: cs =>
    let t := c :: cs
    (asmCommand (t.takeWhile fun x => !isBlank x) (asmOperands (t.dropWhile fun x => !isBlank x))).map some

/-- The commands of lines, in order; refused if one of them is. -/
def asmLines : List (List Char) → Option (List Instr)
  | [] => some []
  | l :: ls => (asmLine l).bind fun i => (asmLines ls).map fun is => i.toList ++ is

/-- A program: the words the host presents one after another, from its text (R112). -/
def assemble (text : List Char) : Option (List Word) := (asmLines (parts '\n' [] text)).map (List.map encode)

end Sys2Proof.Machine
end

