-- ==== Sys2Proof/Tests/Slice0.lean ====
section
/-! SUPPORT. Tests on fixed values and witnesses. The expected results are those of spec/95_test_vectors.md and
spec/30_encoding.md R114, named at each group. A `witness_` theorem shows a state and operands that meet all the
hypotheses of the obligation it is named after. -/

namespace Sys2Proof.Tests

open Sys2Proof Sys2Proof.Machine

/-! ### States -/

/-- Clean enabled (R311) with the unspecified fields at numbers, so that a test can be evaluated. -/
def clean : State :=
  { State.reset with sr := 0, outQ := 0, stepCtx := ⟨.s1, .forward, .single, 0⟩, enabled := true, oeN := false }

/-- Stepper 1 constructed with `revsteps = 200` and 5000 us a step, DC motor 3 running forward at duty 100, phase 31. -/
def busyShop : State :=
  { clean with
    dcInit := ⟨false, false, true, false⟩, stInit := ⟨true, false⟩, speedSet := ⟨true, false⟩
    revsteps := ⟨200, 0⟩, usperstep := ⟨5000, 0⟩, currentstep := ⟨31, 0⟩
    latchState := 0x24, outQ := 0x24, duty := ⟨255, 255, 100, 0⟩ }

/-- The state a command leaves. -/
def after (i : Instr) (s : State) : State :=
  match exec i s with
  | .next t => t
  | .fault _ => s
  | .refused _ => s

/-- The command that faults and the code it raises. -/
def raises (i : Instr) (s : State) : FaultCode := (after i s).faultCode

/-- The instruction of a word, or none. -/
def reads (w : Word) : Option Instr := decodeTableWord 32 w.toNat

/-- The decode fault of a word, or none. -/
def rejects (w : Word) : Option DecodeFault :=
  match decodeWord w with
  | .ok _ => none
  | .error e => some e

/-! ### WellFormed: the ill-formed terms are refused (R104) -/

theorem test_wf_onestep_brake : (Instr.onestep .s1 .brake .single).wf = false := by decide
theorem test_wf_onestep_release : (Instr.onestep .s2 .release .microstep).wf = false := by decide
theorem test_wf_step_brake : (Instr.step .s1 1 .brake .single).wf = false := by decide
theorem test_wf_step_release : (Instr.step .s2 0 .release .double).wf = false := by decide
theorem test_wf_step_backward : (Instr.step .s2 0 .backward .double).wf = true := by decide
theorem test_wf_dc_brake : (Instr.dcRun .m1 .brake).wf = true := by decide

/-! ### Decoding: words written from the field table (R101, R110; 95 section 2.1) -/

theorem test_decode_enable : reads 0b0001_000_000_000_000_0000000000000000 = some .enable := by decide
theorem test_decode_writeLatch :
    reads 0b0010_000_000_000_000_0000000010100101 = some (.writeLatch 0xA5) := by decide
theorem test_decode_setDuty :
    reads 0b0011_010_000_000_000_0000000010000000 = some (.setDuty .ch2 128) := by decide
theorem test_decode_dcInit : reads 0b0100_100_000_000_000_0000000000000000 = some (.dcInit .m4) := by decide
theorem test_decode_dcRun :
    reads 0b0101_011_100_000_000_0000000000000000 = some (.dcRun .m3 .release) := by decide
theorem test_decode_dcSpeed :
    reads 0b0110_011_000_000_000_0000000001100100 = some (.dcSpeed .m3 100) := by decide
theorem test_decode_stepperInit :
    reads 0b0111_010_000_000_000_0000000000110000 = some (.stepperInit .s2 48) := by decide
theorem test_decode_stepperSpeed :
    reads 0b1000_001_000_000_000_0000000001111000 = some (.stepperSpeed .s1 120) := by decide
theorem test_decode_onestep :
    reads 0b1001_010_010_011_000_0000000000000000 = some (.onestep .s2 .backward .interleave) := by decide
theorem test_decode_step :
    reads 0b1010_010_010_100_000_0000000000000011 = some (.step .s2 3 .backward .microstep) := by decide
theorem test_decode_release : reads 0b1011_010_000_000_000_0000000000000000 = some (.release .s2) := by decide

theorem test_reject_opcode : [0x00000000, 0xC0000000, 0xFFFFFFFF].map rejects =
    [some .illegalOpcode, some .illegalOpcode, some .illegalOpcode] := by decide
theorem test_reject_reserved :
    [0x10000001, 0x10010000, 0x200001A5, 0x30800080, 0x62000100, 0x70010000, 0x92480001].map rejects =
      List.replicate 7 (some .reservedField) := by decide
theorem test_reject_index : [0x38000080, 0x40000000, 0x4A000000, 0x96480000, 0xA6C80001].map rejects =
    List.replicate 5 (some .badIndex) := by decide
theorem test_reject_direction : [0x52000000, 0x53400000, 0x93080000, 0xA2C80001].map rejects =
    List.replicate 4 (some .badDirection) := by decide
theorem test_reject_style : [0x92400000, 0xA2780001].map rejects = List.replicate 2 (some .badStyle) := by decide

/-! ### Assembly text (R112, R113) -/

theorem test_assemble : assemble "ENABLE ; open\n\nSTEP 1, #200, FORWARD, SINGLE\nDC_BRAKE 1".toList =
    some [0x10000000, 0xA24800C8, 0x52C00000] := by decide
theorem test_assemble_hex : assemble "WRITE_LATCH #0xA5".toList = some [0x200000A5] := by decide
theorem test_assemble_refuses :
    (["SET_DUTY 2, #256", "DC_INIT 5", "ONESTEP 1, BRAKE, SINGLE", "READ 0"].map fun l => assemble l.toList) =
      [none, none, none, none] := by decide

/-! ### Latch and PWM commands (95 section 2.2, 2.3) -/

theorem test_enable_repeated :
    let t := after .enable busyShop
    (t.latchState, t.outQ, t.dcInit, t.duty, t.currentstep, t.clock) =
      (0x00#8, 0x00#8, busyShop.dcInit, busyShop.duty, busyShop.currentstep, 19) := by decide
theorem test_enable_from_reset :
    let t := after .enable { clean with enabled := false, oeN := true, outQ := 0x99 }
    (t.enabled, t.oeN, t.outQ, readReg t 0x00) = (true, false, 0x00#8, 0x01#8) := by decide
theorem test_writeLatch_not_enabled :
    let t := after (.writeLatch 1) { clean with enabled := false, oeN := true, cmdWord := 0x20000001 }
    (readReg t 0x00, readReg t 0x01, readReg t 0x08, readReg t 0x09, readReg t 0x0A, readReg t 0x0B) =
      (0x04#8, 0x06#8, 0x01#8, 0x00#8, 0x00#8, 0x20#8) := by decide
theorem test_writeLatch_over_owned :
    (after (.dcRun .m1 .backward) (after (.writeLatch 0xFF) { clean with dcInit := ⟨true, false, false, false⟩ })).outQ =
      0xFB#8 := by decide
theorem test_setDuty_before_enable :
    let t := after (.setDuty .ch0 255) { clean with enabled := false, oeN := true }
    (t.duty, t.fault, t.clock) = (⟨255, 0, 0, 0⟩, false, 1) := by decide
theorem test_pwm_pin_128 :
    (pwmPin { clean with pwmActive := ⟨128, 0, 0, 0⟩, pwmCnt := ⟨127, 0, 0, 0⟩ } .ch0,
      pwmPin { clean with pwmActive := ⟨128, 0, 0, 0⟩, pwmCnt := ⟨128, 0, 0, 0⟩ } .ch0) = (true, false) := by decide

theorem test_fault_code_bytes :
    ([FaultCode.none, .illegalOpcode, .reservedField, .badIndex, .badDirection, .badStyle, .notEnabled, .notInitialized,
      .resourceConflict, .speedZero, .speedUnset].map fun c => readReg { clean with faultCode := c } 0x01) =
      [0x00, 0x01, 0x02, 0x03, 0x04, 0x05, 0x06, 0x07, 0x08, 0x09, 0x0A] := by decide

/-! ### DC motors (95 section 2.4) -/

theorem test_dcInit : (after (.dcInit .m1) { clean with latchState := 0xFF, outQ := 0xFF }).latchState = 0xF3#8 := by
  decide
theorem test_dcInit_conflict :
    (raises (.dcInit .m4) { clean with stInit := ⟨false, true⟩ }, raises (.dcInit .m2) (after (.dcInit .m2) clean)) =
      (.resourceConflict, .resourceConflict) := by decide
theorem test_dcRun_slot3 :
    let s := { clean with latchState := 0xFF, outQ := 0xFF, dcInit := ⟨false, false, true, false⟩, duty := ⟨0, 0, 200, 0⟩ }
    let t := after (.dcRun .m3 .release) s
    (t.latchState, t.duty.ch2, (after (.dcRun .m3 .backward) s).latchState) = (0x5F#8, 0#8, 0xDF#8) := by decide
theorem test_dcRun_unconstructed : raises (.dcRun .m1 .forward) clean = .notInitialized := by decide
theorem test_dcSpeed_unconstructed :
    raises (.dcSpeed .m1 10) { clean with enabled := false, oeN := true } = .notInitialized := by decide
theorem test_dcSpeed : (after (.dcSpeed .m3 7) busyShop).duty = ⟨255, 255, 7, 0⟩ := by decide

/-! ### Steppers (95 sections 2.6 to 2.9) -/

theorem test_stepperInit :
    let t := after (.stepperInit .s1 200) { clean with latchState := 0xFF, outQ := 0xFF, duty := ⟨9, 9, 9, 9⟩ }
    (t.latchState, t.duty, readReg t 0x03) = (0xE1#8, ⟨0, 0, 9, 9⟩, 0x10#8) := by decide
theorem test_stepperInit_conflict :
    raises (.stepperInit .s1 200) { clean with dcInit := ⟨true, false, false, false⟩ } = .resourceConflict := by decide
theorem test_stepperSpeed :
    ([(200, 60), (48, 100), (200, 120), (200, 7), (1, 1), (65535, 65535)].map fun p : Half × Half =>
      (after (.stepperSpeed .s1 p.2) { busyShop with revsteps := ⟨p.1, 0⟩ }).usperstep.s1) =
      [5000, 12500, 2500, 42857, 60000000, 0] := by decide
theorem test_stepperSpeed_zero :
    (raises (.stepperSpeed .s1 0) busyShop, raises (.stepperSpeed .s1 60) { busyShop with revsteps := ⟨0, 0⟩ }) =
      (.speedZero, .speedZero) := by decide

/-- The rows of 95 section 2.6: stepper 1 from phase 0. -/
theorem test_onestep :
    ([(.forward, .single), (.forward, .double), (.forward, .interleave), (.forward, .microstep),
      (.backward, .single), (.backward, .double), (.backward, .interleave), (.backward, .microstep)].map
      fun p : Direction × Style =>
        let t := after (.onestep .s1 p.1 p.2) { clean with stInit := ⟨true, false⟩ }
        (t.currentstep.s1.toNat, t.latchState, t.duty.ch0.toNat, t.duty.ch1.toNat)) =
      [(8, 0x02#8, 255, 255), (8, 0x0A#8, 255, 255), (4, 0x06#8, 255, 255), (1, 0x06#8, 250, 50),
       (24, 0x10#8, 255, 255), (24, 0x14#8, 255, 255), (28, 0x14#8, 255, 255), (31, 0x14#8, 250, 50)] := by decide
theorem test_onestep_m16 :
    let t := after (.onestep .s1 .backward .interleave) { clean with cfg := defaultParams16, stInit := ⟨true, false⟩ }
    (t.currentstep.s1.toNat, t.latchState) = (56, 0x14#8) := by decide
theorem test_step_first_of_four :
    let t := after (.step .s1 4 .forward .single) { busyShop with currentstep := ⟨0, 0⟩ }
    (t.latchState, t.stepsRemaining, t.busy, t.clock, t.events) =
      (0x22#8, 3#16, true, 80018, [⟨0x22, ⟨255, 255, 100, 0⟩, 5000⟩]) := by decide
theorem test_step_speed_unset :
    raises (.step .s1 0 .forward .single) { busyShop with speedSet := ⟨false, false⟩ } = .speedUnset := by decide
theorem test_release :
    let t := after (.release .s1) busyShop
    (t.latchState, t.duty, t.currentstep) = (0x20#8, ⟨0, 0, 100, 0⟩, busyShop.currentstep) := by decide
theorem test_release_unconstructed : raises (.release .s1) clean = .notInitialized := by decide

/-! ### One step of the machine (95 section 2.10) -/

theorem test_step_raises_bad_index :
    (match step (State.withFetchWord clean 32 0xA6C80001) with
      | .next t => (t.fault, t.faultCode, t.faultCmd, t.cmdValid)
      | .fault _ => (false, .none, 0, true)
      | .refused _ => (false, .none, 0, true)) = (true, .badIndex, 0xA6C80001#32, false) := by decide
theorem test_step_reset_hides_the_byte :
    (match step { busyShop with env := [.reset] } with
      | .next t => (t.latchState, t.oeN, t.currentstep.s1, t.outQ, drv t)
      | .fault _ => (1, false, 0, 0, none)
      | .refused _ => (1, false, 0, 0, none)) = (0x00#8, true, 0x00#8, 0x24#8, none) := by decide

/-- The first reset edge leaves the reset state, whatever the block held at power-up (R301, R303). -/
theorem test_reset_from_power_up : resetEdge State.powerUp = { State.reset with clock := 1 } := rfl

/-! ### A legal configuration and states that meet the invariant -/

theorem legal_curve8 : CurveLegal defaultParams := by
  refine ⟨by decide, by decide, by decide, ?_, ?_⟩
  · intro i h0 h8
    have h8 : i ≤ 8 := h8
    interval_cases i <;> decide
  · intro i h8
    have h8 : i < 8 := h8
    interval_cases i <;> decide

theorem legal_default : Legal defaultParams := ⟨by decide, legal_curve8, by decide, by decide⟩

theorem legal_default16 : Legal defaultParams16 := by
  refine ⟨by decide, ⟨by decide, by decide, by decide, ?_, ?_⟩, by decide, by decide⟩
  · intro i h0 h16
    have h16 : i ≤ 16 := h16
    interval_cases i <;> decide
  · intro i h16
    have h16 : i < 16 := h16
    interval_cases i <;> decide

theorem good_busyShop : Good busyShop := by
  refine ⟨?_, ?_, by decide, by decide, by decide, by decide, by decide, by decide, by decide, by decide, ?_,
    by decide, by decide, by decide, by decide, by decide⟩
  · intro st; cases st <;> decide
  · intro st; cases st <;> decide
  · intro ch; cases ch <;> decide

theorem inv_busyShop : Inv busyShop :=
  ⟨good_busyShop, fun h => (nomatch h), fun h => (nomatch h), fun h => (nomatch h)⟩

/-- A block stuck in a fault. -/
def stuck : State := { busyShop with fault := true, faultCode := .speedZero, faultCmd := 0x82000000 }

theorem inv_stuck : Inv stuck := by
  refine ⟨⟨?_, ?_, by decide, by decide, by decide, by decide, by decide, by decide, by decide, by decide, ?_,
    by decide, by decide, by decide, by decide, by decide⟩, fun h => (nomatch h), fun h => (nomatch h), fun h => (nomatch h)⟩
  · intro st; cases st <;> decide
  · intro st; cases st <;> decide
  · intro ch; cases ch <;> decide

/-- `busyShop` with a word on the port. -/
def offered (w : Word) : State := presentWord w busyShop

theorem presented_offered (w : Word) : Presented (offered w) := ⟨.inl rfl, rfl, rfl⟩

theorem inv_offered (w : Word) : Inv (offered w) := by
  obtain ⟨h1, h2, h3, h4, h5, h6, h7, h8, h9, h10, h11, h12, h13, h14, h15, h16⟩ := good_busyShop
  exact ⟨⟨h1, h2, h3, h4, h5, h6, h7, h8, h9, h10, h11, h12, h13, h14, h15, h16⟩, fun h => (nomatch h),
    fun h => (nomatch h), fun h => (nomatch h)⟩

/-- A STEP of stepper 1 between two of its steps. -/
def between : State :=
  { busyShop with busy := true, stepsRemaining := 2, stepCtx := ⟨.s1, .forward, .single, 5000⟩ }

theorem phases_busyShop : PhasesInRange busyShop := good_busyShop.phase

theorem ready_busyShop : StepReady busyShop .s1 := ⟨rfl, rfl, rfl⟩

/-! ### Witnesses -/

theorem witness_DecodeOfEncodeIsTheCommand : (Instr.step .s2 0xFFFF .backward .microstep).wf = true := by decide
theorem witness_EncodeOfDecodeIsTheWord : decodeWord 0xA4A0FFFF = .ok (.step .s2 0xFFFF .backward .microstep) := rfl
theorem witness_DecodeChecks_opcode :
    (fieldOP 0x00000000).toNat = 0 ∧ 12 ≤ (fieldOP 0xC0000000).toNat ∧ fieldOP 0x10000000 = Op.enable.code ∧
      fieldOP 0xB2000000 = Op.release.code := by decide
theorem witness_DecodeChecks_reserved :
    fieldOP 0x92480001 = Op.onestep.code ∧ (0x92480001#32 &&& Op.onestep.maskBits) ≠ Op.onestep.matchBits := by decide
theorem witness_DecodeChecks_index :
    fieldOP 0x38000080 = Op.setDuty.code ∧ (0x38000080#32 &&& Op.setDuty.maskBits) = Op.setDuty.matchBits ∧
      idxLegal .setDuty (fieldIDX 0x38000080) = false ∧ idxLegal .setDuty (fieldIDX 0x36000080) = true := by decide
theorem witness_DecodeChecks_direction :
    (0x53400000#32 &&& Op.dcRun.maskBits) = Op.dcRun.matchBits ∧ idxLegal .dcRun (fieldIDX 0x53400000) = true ∧
      dirLegal .dcRun (fieldDIR 0x53400000) = false ∧ dirLegal .dcRun (fieldDIR 0x53000000) = true := by decide
theorem witness_DecodeChecks_style :
    (0x92680000#32 &&& Op.onestep.maskBits) = Op.onestep.matchBits ∧ idxLegal .onestep (fieldIDX 0x92680000) = true ∧
      dirLegal .onestep (fieldDIR 0x92680000) = true ∧ styLegal .onestep (fieldSTY 0x92680000) = false ∧
      styLegal .onestep (fieldSTY 0x92600000) = true := by decide
theorem witness_StepRunsTheDecodedCommand :
    Presented (offered 0xA24800C8) ∧ decodeWord (offered 0xA24800C8).cmdWord = .ok (.step .s1 200 .forward .single) :=
  ⟨presented_offered _, rfl⟩
theorem witness_UndecodableWordRaisesItsFault :
    Presented (offered 0xFFFFFFFF) ∧ decodeWord (offered 0xFFFFFFFF).cmdWord = .error .illegalOpcode :=
  ⟨presented_offered _, rfl⟩
theorem witness_ClosedPortHoldsTheCommand : cmdReady between = false ∧ between.env = [] := by decide
theorem witness_FaultHoldsUntilReset :
    Inv stuck ∧ stuck.fault = true ∧ (∀ rest, stuck.env ≠ .reset :: rest) ∧ ∃ t, step stuck = .next t :=
  ⟨inv_stuck, rfl, fun _ h => (nomatch h), _, rfl⟩
theorem witness_FaultsArePrecise :
    clean.fault = false ∧ ∃ t, exec (.release .s1) clean = .next t ∧ t.fault = true := ⟨rfl, _, rfl, rfl⟩
theorem witness_FirstFailingCheckIsRaised :
    firstFailure (.dcRun .m1 .forward) { clean with enabled := false } = some .notEnabled ∧
    firstFailure (.dcRun .m1 .forward) clean = some .notInitialized ∧
    firstFailure (.dcInit .m1) busyShop = some .resourceConflict ∧
    firstFailure (.stepperSpeed .s1 0) busyShop = some .speedZero ∧
    firstFailure (.step .s1 1 .forward .single) { busyShop with speedSet := ⟨false, false⟩ } = some .speedUnset := by
  decide
theorem witness_CommandPassingItsChecksCompletes :
    [Instr.enable, .writeLatch 1, .setDuty .ch0 1, .dcInit .m4, .dcRun .m3 .brake, .dcSpeed .m3 1,
      .stepperSpeed .s1 1, .onestep .s1 .backward .microstep, .step .s1 1 .forward .double, .release .s1].map
      (fun i => (i.wf, firstFailure i busyShop)) = List.replicate 10 (true, none) ∧
    firstFailure (.stepperInit .s1 1) clean = none := by decide
theorem witness_StepperTakesNoOtherDirection : Direction.brake.steps = false ∧ Direction.release.steps = false := by
  decide
theorem witness_WriteLatchReplacesTheByte : busyShop.enabled = true := rfl
theorem witness_DutyCommandsChangeOneRegister :
    getMotor busyShop.dcInit .m3 = true ∧ motorChannel .m3 = .ch2 := by decide
theorem witness_TransferShowsAllBitsAtOnce :
    (clockEdges 16 (startTransfer 0xA5 [] { busyShop with sr := 0xFF })).sr = 0xA5 ∧
      (clockEdges 17 (startTransfer 0xA5 [] busyShop)).outQ = 0xA5 := by decide
theorem witness_DcInitConstructsAFreeSlot :
    busyShop.enabled = true ∧ getMotor busyShop.dcInit .m4 = false ∧
      getStepper busyShop.stInit (motorStepper .m4) = false := by decide
theorem witness_DcRunSetsTheBitPair : busyShop.enabled = true ∧ getMotor busyShop.dcInit .m3 = true := by decide
theorem witness_DcSpeedWritesItsDuty : getMotor busyShop.dcInit .m3 = true := by decide
theorem witness_DcRunDefaultBits :
    let s := { clean with dcInit := ⟨true, true, true, true⟩ }
    s.cfg.latchBit = defaultLatchBit ∧ s.enabled = true ∧ getMotor s.dcInit .m1 = true ∧ getMotor s.dcInit .m2 = true ∧
      getMotor s.dcInit .m3 = true ∧ getMotor s.dcInit .m4 = true := by decide
theorem witness_DcCommandsKeepOtherSlots :
    let s := { clean with dcInit := ⟨true, false, true, false⟩ }
    Legal s.cfg ∧ Motor.m1 ≠ Motor.m3 ∧ IsDcCommand .m1 (.dcRun .m1 .forward) ∧ IsDcCommand .m3 (.dcRun .m3 .backward) ∧
      ∃ t u, exec (.dcRun .m1 .forward) s = .next t ∧ exec (.dcRun .m3 .backward) t = .next u :=
  ⟨legal_default, by decide, .inr (.inl ⟨_, rfl⟩), .inr (.inl ⟨_, rfl⟩), _, _, rfl, rfl⟩
theorem witness_MotorCommandsStayInTheirSlot :
    slotOf (.onestep .s1 .forward .single) = some (.stepper .s1) ∧ slotOf (.dcRun .m3 .brake) = some (.motor .m3) ∧
      ∃ t, exec (.onestep .s1 .forward .single) busyShop = .next t := ⟨rfl, rfl, _, rfl⟩
theorem witness_StepperInitConstructsAFreeSlot :
    clean.enabled = true ∧ getStepper clean.stInit .s2 = false ∧ getMotor clean.dcInit (coil1 .s2) = false ∧
      getMotor clean.dcInit (coil2 .s2) = false := by decide
theorem witness_StepperSpeedDividesDown :
    Inv busyShop ∧ cmdReady busyShop = true ∧ Legal busyShop.cfg ∧ getStepper busyShop.stInit .s1 = true ∧
      getStepper busyShop.revsteps .s1 ≠ 0 ∧ (60 : Half) ≠ 0 :=
  ⟨inv_busyShop, rfl, legal_default, rfl, by decide, by decide⟩
theorem witness_SpeedIsWithinAMicrosecond :
    getStepper busyShop.stInit .s1 = true ∧ getStepper busyShop.revsteps .s1 ≠ 0 ∧ (7 : Half) ≠ 0 := by decide
theorem witness_OnestepMovesOneStride :
    Direction.backward.steps = true ∧ busyShop.enabled = true ∧ getStepper busyShop.stInit .s1 = true := by decide
theorem witness_StepMakesItsFirstStep : Direction.forward.steps = true ∧ StepReady busyShop .s1 ∧ (1 : Half) ≠ 0 :=
  ⟨rfl, ready_busyShop, by decide⟩
theorem witness_StepOfZeroWritesNothing : Direction.backward.steps = true ∧ StepReady busyShop .s1 :=
  ⟨rfl, ready_busyShop⟩
theorem witness_ReleaseClearsTheCoils : busyShop.enabled = true ∧ getStepper busyShop.stInit .s1 = true := by decide
theorem witness_ReleaseKeepsThePhase :
    Direction.forward.steps = true ∧ busyShop.enabled = true ∧ getStepper busyShop.stInit .s1 = true ∧
      ∃ t, exec (.onestep .s1 .forward .interleave) busyShop = .next t := ⟨rfl, rfl, rfl, _, rfl⟩
theorem witness_PhaseAfterManySteps :
    busyShop.enabled = true ∧ getStepper busyShop.stInit .s1 = true ∧ PhasesInRange busyShop :=
  ⟨rfl, rfl, phases_busyShop⟩
/-- For WholeStepCompletes and WholeStepTrace: the smallest and the largest step count. -/
theorem witness_WholeStep (n : Half) (w : Word)
    (_h : (n, w) ∈ [(1#16, 0xA2480001#32), (0xFFFF#16, 0xA248FFFF#32)]) :
    (offered w).env = [] ∧ (offered w).cmdValid = true ∧ cmdReady (offered w) = true ∧
      decodeWord (offered w).cmdWord = .ok (.step .s1 n .forward .single) ∧ n ≠ 0 ∧ StepReady (offered w) .s1 ∧
      PhasesInRange (offered w) := by
  simp only [List.mem_cons, List.not_mem_nil, or_false, Prod.mk.injEq] at _h
  rcases _h with ⟨rfl, rfl⟩ | ⟨rfl, rfl⟩ <;>
    exact ⟨rfl, rfl, rfl, rfl, by decide, ⟨rfl, rfl, rfl⟩, (inv_offered _).good.phase⟩
theorem witness_StepRoundTrip : cmdReady busyShop = true ∧ StepReady busyShop .s1 ∧ PhasesInRange busyShop :=
  ⟨rfl, ready_busyShop, phases_busyShop⟩
theorem witness_TwoHundredSingleSteps :
    Inv busyShop ∧ cmdReady busyShop = true ∧ busyShop.enabled = true ∧ getStepper busyShop.stInit .s1 = true ∧
      getStepper busyShop.revsteps .s1 = 200 := ⟨inv_busyShop, rfl, rfl, rfl, rfl⟩
theorem witness_StepKeepsTheOffset :
    Direction.forward.steps = true ∧ busyShop.enabled = true ∧ getStepper busyShop.stInit .s1 = true ∧
      PhasesInRange busyShop ∧ ∃ t, exec (.onestep .s1 .forward .double) busyShop = .next t :=
  ⟨rfl, rfl, rfl, phases_busyShop, _, rfl⟩
theorem witness_NoCoilHasBothBits_onestep :
    Legal busyShop.cfg ∧ Direction.backward.steps = true ∧ busyShop.enabled = true ∧
      getStepper busyShop.stInit .s1 = true ∧ ∃ t, exec (.onestep .s1 .backward .microstep) busyShop = .next t :=
  ⟨legal_default, rfl, rfl, rfl, _, rfl⟩
theorem witness_NoCoilHasBothBits_step :
    Legal busyShop.cfg ∧ Direction.forward.steps = true ∧ StepReady busyShop .s1 ∧ (1 : Half) ≠ 0 ∧
      ∃ t, exec (.step .s1 1 .forward .double) busyShop = .next t :=
  ⟨legal_default, rfl, ready_busyShop, by decide, _, rfl⟩
theorem witness_NoCoilHasBothBits_stepMove : Legal between.cfg ∧ between.stepCtx.stepper = .s1 :=
  ⟨legal_default, rfl⟩
theorem witness_PatternTablesDefault : defaultParams.latchBit = defaultLatchBit := rfl
theorem witness_MicrostepIsContinuous : Legal defaultParams ∧ Legal defaultParams16 ∧ 0 < 4 ∧ 3 < 4 :=
  ⟨legal_default, legal_default16, by decide, by decide⟩
theorem witness_MicrostepIsContinuous_rows :
    3 < 4 ∧ 7 < microsteps defaultParams ∧ 0 < microsteps defaultParams ∧ 15 < microsteps defaultParams16 := by decide
theorem witness_RepeatedCommandsLeaveTheSameState :
    [Instr.enable, .writeLatch 1, .setDuty .ch2 9, .dcRun .m3 .release, .dcSpeed .m3 9, .stepperSpeed .s1 7,
      .release .s1].map (fun i => (i.wf, firstFailure i busyShop)) = List.replicate 7 (true, none) := by decide
theorem witness_ReservedAddressesReadZero :
    ([0x0F, 0x12, 0x13, 0x18, 0x1F, 0x28, 0x2F, 0x38, 0x3F, 0x40, 0xFF].map fun a : Byte =>
      decide (a.toNat = 0x0F ∨ a.toNat = 0x12 ∨ a.toNat = 0x13 ∨ (0x18 ≤ a.toNat ∧ a.toNat ≤ 0x1F) ∨
        (0x28 ≤ a.toNat ∧ a.toNat ≤ 0x2F) ∨ (0x38 ≤ a.toNat ∧ a.toNat ≤ 0x3F) ∨ 0x40 ≤ a.toNat)) =
      List.replicate 11 true := by decide
theorem witness_ReservedAddresses_readAddr :
    { busyShop with env := [.readAddr 0x20, .clock] }.env = .readAddr 0x20 :: [.clock] := rfl
theorem witness_Presented_behind_a_second_word : Presented { offered 0x10000000 with env := [.present 0xB2000000] } :=
  ⟨.inr ⟨_, _, rfl⟩, rfl, rfl⟩
theorem witness_PwmTickMovesOneGroup :
    channelGroup .ch1 = .g0 ∧ channelGroup .ch2 ≠ .g0 ∧
      getChannel { busyShop with pwmCnt := ⟨0, 254, 0, 0⟩ }.pwmCnt .ch1 = 254 ∧
      getChannel { busyShop with pwmCnt := ⟨0, 253, 0, 0⟩ }.pwmCnt .ch1 ≠ 254 := by decide
theorem witness_PwmPinIsHighForTheDuty :
    getChannel busyShop.cfg.pwmPresent .ch3 = true ∧ getChannel busyShop.pwmCnt .ch3 = 0 := by decide
theorem witness_FallbackPinFollowsTheDuty :
    let s := { busyShop with cfg := { defaultParams with pwmPresent := ⟨true, true, false, false⟩ }, duty := ⟨0, 0, 255, 0⟩ }
    getChannel s.cfg.pwmPresent .ch2 = false ∧ getChannel s.duty .ch2 = 255 ∧
      getChannel s.cfg.pwmPresent .ch3 = false ∧ getChannel s.duty .ch3 = 0 := by decide
theorem witness_CommandsIgnoreThePwmGenerators : ∃ t, exec (.step .s1 9 .forward .microstep) busyShop = .next t :=
  ⟨_, rfl⟩
theorem witness_ClockEdgesRefineTheTransactions :
    (Inv (offered 0x10000000) ∧ Legal (offered 0x10000000).cfg ∧ (offered 0x10000000).cmdValid = true ∧
      cmdReady (offered 0x10000000) = true ∧ decodeWord (offered 0x10000000).cmdWord = .ok .enable) ∧
    (Legal between.cfg ∧ atStepBoundary between = true) :=
  ⟨⟨inv_offered _, legal_default, rfl, rfl, rfl⟩, legal_default, rfl⟩
theorem witness_PortIsClosedForTheDuration :
    Inv (offered 0x10000000) ∧ Legal (offered 0x10000000).cfg ∧ (offered 0x10000000).cmdValid = true ∧
      cmdReady (offered 0x10000000) = true ∧ decodeWord (offered 0x10000000).cmdWord = .ok .enable ∧ 1 ≤ 18 ∧
      18 < durationCycles (planOf .enable (offered 0x10000000)) (offered 0x10000000) ∧
      firstFailure .enable (offered 0x10000000) = none :=
  ⟨inv_offered _, legal_default, rfl, rfl, rfl, by decide, by decide, rfl⟩
/-- A STEP of two steps, at the last edge of its second wait (R234: 2 * (18 + 5000 * 16) cycles). -/
theorem witness_PortIsClosed_second_step :
    Inv (offered 0xA2480002) ∧ Legal (offered 0xA2480002).cfg ∧ (offered 0xA2480002).cmdValid = true ∧
      cmdReady (offered 0xA2480002) = true ∧
      decodeWord (offered 0xA2480002).cmdWord = .ok (.step .s1 2 .forward .single) ∧
      durationCycles (planOf (.step .s1 2 .forward .single) (offered 0xA2480002)) (offered 0xA2480002) = 160036 ∧
      firstFailure (.step .s1 2 .forward .single) (offered 0xA2480002) = none :=
  ⟨inv_offered _, legal_default, rfl, rfl, rfl, by decide, rfl⟩
theorem witness_OldValuesUntilTheCommit :
    let s := offered 0xA2480001
    let i := Instr.step .s1 1 .forward .single
    s.cmdValid = true ∧ cmdReady s = true ∧ decodeWord s.cmdWord = .ok i ∧ firstFailure i s = none ∧
      18 ≤ planCycles (planOf i s) s ∧ (∀ st rpm, i ≠ .stepperSpeed st rpm) ∧ 1 ≤ 17 ∧ (0x02#8) ≠ 0x00 ∧ (0x02#8) ≠ 0x10 ∧
      (0x02#8) ≠ 0x11 :=
  ⟨rfl, rfl, rfl, rfl, by decide, fun _ _ h => (nomatch h), by decide, by decide, by decide, by decide⟩
theorem witness_OldValues_later_commit : atStepBoundary between = true ∧ 17 ≤ 17 := by decide
theorem witness_WaitCountsMicroseconds :
    let s := { busyShop with busy := true, seqState := .wait, usRemaining := 5000 }
    Legal s.cfg ∧ s.seqState = .wait ∧ s.prescale = 0 ∧ 0 < s.usRemaining.toNat ∧
      0 < s.usRemaining.toNat * cycPerUs s.cfg := ⟨legal_default, rfl, rfl, by decide, by decide⟩
theorem witness_ResetSetsEveryRegister : { busyShop with env := [.reset] }.env = .reset :: [] := rfl
theorem witness_CleanEnabledState : { stuck with env := [.reset] }.env = .reset :: [] := rfl
theorem witness_EveryStepKeepsTheInvariant :
    Inv (offered 0xA24800C8) ∧ ∃ t, step (offered 0xA24800C8) = .next t := ⟨inv_offered _, _, rfl⟩
theorem witness_ConfigurationNeverChanges : ∃ t, step between = .next t := ⟨_, rfl⟩
theorem witness_FlagsAreClearedOnlyByReset :
    (∀ rest, (offered 0x42000000).env ≠ .reset :: rest) ∧ ∃ t, step (offered 0x42000000) = .next t :=
  ⟨fun _ h => (nomatch h), _, rfl⟩

end Sys2Proof.Tests
end

section
/-! SUPPORT. The registers a command's transaction writes are those its commit list names: what carrying out a plan leaves
of `latch_state` and of a duty register, said once for every kind of plan (spec/00_scope.md R14, R15). -/

namespace Sys2Proof.Machine

/-! ### Latch bits outside a mask -/

/-- Bytes that agree outside a mask agree on every mask disjoint from it. -/
theorem and_eq_of_agree_outside {a b mask other : Byte} (h : a &&& ~~~mask = b &&& ~~~mask)
    (hd : mask &&& other = 0) : a &&& other = b &&& other := by
  apply BitVec.eq_of_getLsbD_eq
  intro i hi
  have hb := congrArg (fun x : Byte => x.getLsbD i) h
  have hm := congrArg (fun x : Byte => x.getLsbD i) hd
  simp [hi] at hb hm ⊢
  cases hmi : mask.getLsbD i <;> simp_all

/-- The bit pair of a direction lies inside the slot's mask (R181). -/
theorem dcBits_outside (c : Params) (n : Motor) (dir : Direction) : dcBits c n dir &&& ~~~maskDC c n = 0 := by
  have left (a b : Byte) : a &&& ~~~(a ||| b) = 0 := by
    rw [BitVec.not_or, ← BitVec.and_assoc, BitVec.and_not_self]; exact BitVec.zero_and
  cases dir with
  | forward => exact left _ _
  | backward => rw [maskDC, BitVec.or_comm]; exact left _ _
  | brake => exact BitVec.and_not_self _
  | release => exact BitVec.zero_and

/-! ### A list of updates -/

/-- After a list of updates `latch_state` is its old byte or one the list writes. -/
theorem applyAll_latchState_induct {P : Byte → Prop} (ups : List Update) (s : State)
    (hu : ∀ v, .latchState v ∈ ups → P v) (hs : P s.latchState) : P (applyAll ups s).latchState := by
  induction ups generalizing s with
  | nil => exact hs
  | cons u us ih =>
    refine ih _ (fun v hv => hu v (List.mem_cons_of_mem _ hv)) ?_
    cases u with
    | latchState v => exact hu v List.mem_cons_self
    | stepWait w => simpa [applyUpdate] using hs
    | _ => exact hs

/-- A list of updates leaves alone the duty of a channel it does not write. -/
theorem applyAll_duty_of_not_mem {ch : Channel} (ups : List Update) (s : State)
    (hu : ∀ v, .duty ch v ∉ ups) : getChannel (applyAll ups s).duty ch = getChannel s.duty ch := by
  induction ups generalizing s with
  | nil => rfl
  | cons u us ih =>
    refine (ih _ fun v hv => hu v (List.mem_cons_of_mem _ hv)).trans ?_
    cases u with
    | duty d v =>
      refine getChannel_setChannel_ne _ _ ?_
      rintro rfl
      exact hu v List.mem_cons_self
    | stepWait w => simp [applyUpdate]
    | _ => rfl

/-! ### A plan -/

/-- The updates the transaction of a plan commits in a state; of a STEP, those of its first step. -/
def planUpdates (p : Plan) (s : State) : List Update :=
  match p with
  | .raise _ => []
  | .instant ups => ups
  | .transfer _ ups => ups
  | .enable => [.latchState 0]
  | .divide ups => ups
  | .steps ctx n => runningUpdates { s with stepCtx := ctx, stepsRemaining := n, busy := true }

@[simp] theorem finishWait_cfg (s : State) : (finishWait s).cfg = s.cfg := by unfold finishWait; split <;> rfl
@[simp] theorem finishWait_latchState (s : State) : (finishWait s).latchState = s.latchState := by
  unfold finishWait; split <;> rfl
@[simp] theorem finishWait_duty (s : State) : (finishWait s).duty = s.duty := by unfold finishWait; split <;> rfl

@[simp] theorem transact_cfg (v : Byte) (ups : List Update) (s : State) : (transact v ups s).cfg = s.cfg := by
  simp [transact_eq, afterPins]

/-- A transfer leaves in `latch_state` its old byte or one its commit list writes. -/
theorem transact_latchState_induct {P : Byte → Prop} (v : Byte) (ups : List Update) (s : State)
    (hu : ∀ v, .latchState v ∈ ups → P v) (hs : P s.latchState) : P (transact v ups s).latchState := by
  rw [transact_eq]
  exact applyAll_latchState_induct ups (afterPins v s) hu hs

/-- A transfer leaves alone the duty of a channel its commit list does not write. -/
theorem transact_duty_of_not_mem {ch : Channel} (v : Byte) (ups : List Update) (s : State)
    (hu : ∀ v, .duty ch v ∉ ups) : getChannel (transact v ups s).duty ch = getChannel s.duty ch := by
  rw [transact_eq]
  exact applyAll_duty_of_not_mem ups (afterPins v s) hu

/-- No plan changes the configuration (R12). -/
@[simp] theorem perform_cfg (p : Plan) (s : State) : (perform p s).cfg = s.cfg := by
  cases p <;> simp [perform, enableEdge, finishDivide, stepMove]

/-- After the transaction of a plan `latch_state` is its old byte or one the plan commits. -/
theorem perform_latchState_induct {P : Byte → Prop} (p : Plan) (s : State)
    (hu : ∀ v, .latchState v ∈ planUpdates p s → P v) (hs : P s.latchState) : P (perform p s).latchState := by
  cases p with
  | raise code => exact hs
  | instant ups => exact applyAll_latchState_induct ups s hu hs
  | transfer v ups => exact transact_latchState_induct v ups { s with busy := true } hu hs
  | enable => exact transact_latchState_induct 0 _ { s with busy := true } hu hs
  | divide ups => exact applyAll_latchState_induct ups s hu hs
  | steps ctx n =>
    rw [perform, stepMove, finishWait_latchState]
    exact transact_latchState_induct _ _ _ hu hs

/-- The transaction of a plan leaves alone the duty of a channel the plan does not commit. -/
theorem perform_duty_of_not_mem {ch : Channel} (p : Plan) (s : State) (hu : ∀ v, .duty ch v ∉ planUpdates p s) :
    getChannel (perform p s).duty ch = getChannel s.duty ch := by
  cases p with
  | raise code => rfl
  | instant ups => exact applyAll_duty_of_not_mem ups s hu
  | transfer v ups => exact transact_duty_of_not_mem v ups { s with busy := true } hu
  | enable => exact transact_duty_of_not_mem 0 _ { s with busy := true } hu
  | divide ups => exact applyAll_duty_of_not_mem ups s hu
  | steps ctx n =>
    rw [perform, stepMove, finishWait_duty]
    exact transact_duty_of_not_mem _ _ _ hu

/-! ### A check commits nothing of its own (R274) -/

theorem mem_planUpdates_of_needEnabled {u : Update} {s s' : State} {p : Plan}
    (h : u ∈ planUpdates (needEnabled s p) s') : u ∈ planUpdates p s' := by
  unfold needEnabled at h
  split at h
  · exact h
  · cases h

theorem mem_planUpdates_of_needMotor {u : Update} {s s' : State} {n : Motor} {p : Plan}
    (h : u ∈ planUpdates (needMotor s n p) s') : u ∈ planUpdates p s' := by
  unfold needMotor at h
  split at h
  · exact h
  · cases h

theorem mem_planUpdates_of_needFree {u : Update} {s' : State} {free : Bool} {p : Plan}
    (h : u ∈ planUpdates (needFree free p) s') : u ∈ planUpdates p s' := by
  unfold needFree at h
  split at h
  · exact h
  · cases h

end Sys2Proof.Machine
end

section
/-! PROOF. A DC command changes latch bits and duties of its own slot only (spec/20_memory.md R91). -/

namespace Sys2Proof.Machine

/-- The latch bits, duties and configuration a command for DC slot `n` leaves alone (R33, R91). -/
structure DcSlotFrame (n : Motor) (s t : State) : Prop where
  cfg : t.cfg = s.cfg
  latch : t.latchState &&& ~~~maskDC s.cfg n = s.latchState &&& ~~~maskDC s.cfg n
  duty : ∀ ch, ch ≠ motorChannel n → getChannel t.duty ch = getChannel s.duty ch

/-- DC_INIT commits the released slot, channel off (R182). -/
theorem mem_planUpdates_dcInit {u : Update} {n : Motor} {s : State} (h : u ∈ planUpdates (planDcInit n s) s) :
    u = .latchState (mergeBits s.latchState (maskDC s.cfg n) 0) ∨ u = .duty (motorChannel n) 0 ∨
      u = .dcInit n ∨ u = .busyClear := by
  simpa [planUpdates] using mem_planUpdates_of_needFree (mem_planUpdates_of_needEnabled h)

/-- DC_RUN commits the bit pair of its direction and, for RELEASE, the channel off (R181, R183). -/
theorem mem_planUpdates_dcRun {u : Update} {n : Motor} {dir : Direction} {s : State}
    (h : u ∈ planUpdates (planDcRun n dir s) s) :
    u = .latchState (mergeBits s.latchState (maskDC s.cfg n) (dcBits s.cfg n dir)) ∨
      u = .duty (motorChannel n) 0 ∨ u = .busyClear := by
  have h' : u = .latchState (mergeBits s.latchState (maskDC s.cfg n) (dcBits s.cfg n dir)) ∨
      u ∈ dcDutyUpdates n dir ∨ u = .busyClear := by
    simpa [planUpdates] using mem_planUpdates_of_needMotor (mem_planUpdates_of_needEnabled h)
  have hd : u ∈ dcDutyUpdates n dir → u = .duty (motorChannel n) 0 := by cases dir <;> simp [dcDutyUpdates]
  exact h'.imp_right (Or.imp_left hd)

/-- DC_SPEED writes its duty (R184). -/
theorem mem_planUpdates_dcSpeed {u : Update} {n : Motor} {v : Byte} {s : State}
    (h : u ∈ planUpdates (planDcSpeed n v s) s) : u = .duty (motorChannel n) v := by
  simpa [planUpdates] using mem_planUpdates_of_needMotor h

/-- Every byte a DC command commits agrees with `latch_state` outside the slot's mask (R80). -/
theorem dcCommand_commits_latch {n : Motor} {i : Instr} (hi : IsDcCommand n i) {s : State} {v : Byte}
    (hv : .latchState v ∈ planUpdates (planOf i s) s) :
    v &&& ~~~maskDC s.cfg n = s.latchState &&& ~~~maskDC s.cfg n := by
  obtain rfl | ⟨dir, rfl⟩ | ⟨d, rfl⟩ := hi
  · obtain h | h | h | h := mem_planUpdates_dcInit hv <;> cases h
    exact mergeBits_outside _ _ _ BitVec.zero_and
  · obtain h | h | h := mem_planUpdates_dcRun hv <;> cases h
    exact mergeBits_outside _ _ _ (dcBits_outside _ _ _)
  · cases mem_planUpdates_dcSpeed hv

/-- Every duty a DC command commits is its slot's (R180). -/
theorem dcCommand_commits_duty {n : Motor} {i : Instr} (hi : IsDcCommand n i) {s : State} {ch : Channel} {v : Byte}
    (hv : .duty ch v ∈ planUpdates (planOf i s) s) : ch = motorChannel n := by
  obtain rfl | ⟨dir, rfl⟩ | ⟨d, rfl⟩ := hi
  · obtain h | h | h | h := mem_planUpdates_dcInit hv <;> cases h
    rfl
  · obtain h | h | h := mem_planUpdates_dcRun hv <;> cases h
    rfl
  · cases mem_planUpdates_dcSpeed hv
    rfl

/-- A DC command stays in its slot, whether its checks pass or fail. -/
theorem dcSlotFrame_of_exec {n : Motor} {i : Instr} (hi : IsDcCommand n i) {s t : State} (h : exec i s = .next t) :
    DcSlotFrame n s t := by
  rw [exec_eq_perform] at h
  cases h
  exact {
    cfg := perform_cfg _ _
    latch := perform_latchState_induct (P := fun b => b &&& ~~~maskDC s.cfg n = s.latchState &&& ~~~maskDC s.cfg n)
      _ _ (fun _ => dcCommand_commits_latch hi) rfl
    duty := fun _ hne => perform_duty_of_not_mem _ _ fun _ hv => hne (dcCommand_commits_duty hi hv) }

/-- What stays in slot `n` keeps the latch bits of every other slot of a legal layout (R24, R91). -/
theorem DcSlotFrame.latch_other {n m : Motor} {s t : State} (h : DcSlotFrame n s t) (hl : Legal s.cfg) (hne : n ≠ m) :
    t.latchState &&& maskDC s.cfg m = s.latchState &&& maskDC s.cfg m :=
  and_eq_of_agree_outside h.latch (maskDC_disjoint hl.layout hne)

/-- Settles O24: each command stays in its own slot, and two slots of a legal layout share no latch bit. -/
theorem dcCommandsKeepOtherSlots : Obligations.DcCommandsKeepOtherSlots := by
  intro s t u n m i j hl hne hi hj hst htu
  have hn : DcSlotFrame n s t := dcSlotFrame_of_exec hi hst
  have hm : DcSlotFrame m t u := dcSlotFrame_of_exec hj htu
  have keeps_n := hm.latch_other (hn.cfg ▸ hl) hne.symm
  have outside_m := hm.latch
  rw [hn.cfg] at keeps_n outside_m
  exact ⟨hn.latch, hn.latch_other hl hne, outside_m, keeps_n, hn.duty, hm.duty⟩

end Sys2Proof.Machine
end

section
/-! PROOF. The fields of a command word: a word whose `RSV` is 0 is made of its other fields, a word of a row is 0 in
every field the row does not use, and a legal code is the code of a name (spec/30_encoding.md R101 to R106, R110). -/

namespace Sys2Proof

/-! ### A word from its fields (R101, R102) -/

/-- `RSV = w[18:16]`. -/
def fieldRSV (w : Word) : BitVec 3 := w.extractLsb' 16 3

/-- The six fields side by side are the word. -/
theorem fields_append (w : Word) :
    fieldOP w ++ fieldIDX w ++ fieldDIR w ++ fieldSTY w ++ fieldRSV w ++ fieldIMM16 w = w := by
  simp only [fieldOP, fieldIDX, fieldDIR, fieldSTY, fieldRSV, fieldIMM16,
    BitVec.extractLsb'_append_extractLsb'_eq_extractLsb', BitVec.extractLsb'_eq_self]

theorem wordOf_eq_of_fields {w : Word} {op : BitVec 4} {idx dir sty : BitVec 3} {imm : Half} (hop : fieldOP w = op)
    (hidx : fieldIDX w = idx) (hdir : fieldDIR w = dir) (hsty : fieldSTY w = sty) (hrsv : fieldRSV w = 0)
    (himm : fieldIMM16 w = imm) : wordOf op idx dir sty imm = w := by
  subst hop hidx hdir hsty himm
  have hw := fields_append w
  rwa [hrsv] at hw

/-! ### The fields a row does not use (R106, R110) -/

/-- The `match` column fixes the opcode and zeros. -/
theorem matchBits_eq_code_append (op : Op) : op.matchBits = op.code ++ 0#28 := by cases op <;> rfl

/-- A word of a row is 0 wherever the row's mask covers bits outside `OP`. -/
theorem extract_eq_zero_of_match {w : Word} {op : Op} (hm : w &&& op.maskBits = op.matchBits) {start len : Nat}
    (hle : start + len ≤ 28) (hmask : op.maskBits.extractLsb' start len = BitVec.allOnes len) :
    w.extractLsb' start len = 0 := by
  have h := congrArg (BitVec.extractLsb' start len) hm
  rwa [BitVec.extractLsb'_and, hmask, BitVec.and_allOnes, matchBits_eq_code_append,
    BitVec.extractLsb'_append_eq_of_add_le hle, BitVec.extractLsb'_zero] at h

section
variable {w : Word} {op : Op} (hm : w &&& op.maskBits = op.matchBits)
include hm

theorem fieldIDX_eq_zero (hmask : fieldIDX op.maskBits = BitVec.allOnes 3) : fieldIDX w = 0 :=
  extract_eq_zero_of_match hm (by decide) hmask

theorem fieldDIR_eq_zero (hmask : fieldDIR op.maskBits = BitVec.allOnes 3) : fieldDIR w = 0 :=
  extract_eq_zero_of_match hm (by decide) hmask

theorem fieldSTY_eq_zero (hmask : fieldSTY op.maskBits = BitVec.allOnes 3) : fieldSTY w = 0 :=
  extract_eq_zero_of_match hm (by decide) hmask

/-- Every row's mask covers `RSV`. -/
theorem fieldRSV_eq_zero : fieldRSV w = 0 :=
  extract_eq_zero_of_match hm (by decide) (by cases op <;> rfl)

theorem fieldIMM16_eq_zero (hmask : fieldIMM16 op.maskBits = BitVec.allOnes 16) : fieldIMM16 w = 0 :=
  extract_eq_zero_of_match hm (by decide) hmask

/-- Where the mask covers `w[15:8]`, the immediate is the 8-bit one (R102). -/
theorem fieldIMM16_eq_imm8 (hmask : op.maskBits.extractLsb' 8 8 = BitVec.allOnes 8) :
    fieldIMM16 w = imm8 (fieldIMM8 w) := by
  have hhigh : w.extractLsb' 8 8 = 0 := extract_eq_zero_of_match hm (by decide) hmask
  have hsplit : w.extractLsb' 8 8 ++ fieldIMM8 w = fieldIMM16 w :=
    BitVec.extractLsb'_append_extractLsb'_eq_extractLsb' rfl
  rw [← hsplit, hhigh, imm8, BitVec.setWidth_eq_append (by decide)]
  rfl

/-- A word of a row without `DIR` and `STY` is made of its opcode, its index and its immediate. -/
theorem wordOf_eq_of_idx_imm {idx : BitVec 3} {imm : Half} (hop : fieldOP w = op.code)
    (hdir : fieldDIR op.maskBits = BitVec.allOnes 3) (hsty : fieldSTY op.maskBits = BitVec.allOnes 3)
    (hidx : fieldIDX w = idx) (himm : fieldIMM16 w = imm) : wordOf op.code idx 0 0 imm = w :=
  wordOf_eq_of_fields hop hidx (fieldDIR_eq_zero hm hdir) (fieldSTY_eq_zero hm hsty) (fieldRSV_eq_zero hm) himm

end

/-! ### Names and codes (R103 to R105, R108): an illegal code names nothing, a legal one is the code of its name -/

@[simp] theorem Op.ofCode_code (op : Op) : Op.ofCode op.code = some op := by cases op <;> rfl

theorem Op.ofCode_eq_none : ∀ {c : BitVec 4}, c.toNat = 0 ∨ 12 ≤ c.toNat → Op.ofCode c = none := by decide

theorem Motor.ofIdx_eq_none : ∀ {i : BitVec 3}, ¬(1 ≤ i.toNat ∧ i.toNat ≤ 4) → Motor.ofIdx i = none := by decide

theorem Stepper.ofIdx_eq_none : ∀ {i : BitVec 3}, ¬(1 ≤ i.toNat ∧ i.toNat ≤ 2) → Stepper.ofIdx i = none := by decide

theorem Channel.ofIdx_eq_none : ∀ {i : BitVec 3}, ¬i.toNat ≤ 3 → Channel.ofIdx i = none := by decide

theorem Direction.ofCode_eq_none : ∀ {d : BitVec 3}, ¬(1 ≤ d.toNat ∧ d.toNat ≤ 4) → Direction.ofCode d = none := by
  decide

theorem Direction.ofStepCode_eq_none :
    ∀ {d : BitVec 3}, ¬(1 ≤ d.toNat ∧ d.toNat ≤ 2) → Direction.ofStepCode d = none := by decide

theorem Style.ofCode_eq_none : ∀ {y : BitVec 3}, ¬(1 ≤ y.toNat ∧ y.toNat ≤ 4) → Style.ofCode y = none := by decide

theorem Motor.ofIdx_of_legal {i : BitVec 3} (h : 1 ≤ i.toNat ∧ i.toNat ≤ 4) :
    ∃ n, Motor.ofIdx i = some n ∧ n.idx = i := by
  have named : ∀ i : BitVec 3, 1 ≤ i.toNat ∧ i.toNat ≤ 4 → (Motor.ofIdx i).map Motor.idx = some i := by decide
  exact Option.map_eq_some_iff.mp (named i h)

theorem Stepper.ofIdx_of_legal {i : BitVec 3} (h : 1 ≤ i.toNat ∧ i.toNat ≤ 2) :
    ∃ st, Stepper.ofIdx i = some st ∧ st.idx = i := by
  have named : ∀ i : BitVec 3, 1 ≤ i.toNat ∧ i.toNat ≤ 2 → (Stepper.ofIdx i).map Stepper.idx = some i := by decide
  exact Option.map_eq_some_iff.mp (named i h)

theorem Channel.ofIdx_of_legal {i : BitVec 3} (h : i.toNat ≤ 3) :
    ∃ ch, Channel.ofIdx i = some ch ∧ ch.idx = i := by
  have named : ∀ i : BitVec 3, i.toNat ≤ 3 → (Channel.ofIdx i).map Channel.idx = some i := by decide
  exact Option.map_eq_some_iff.mp (named i h)

theorem Direction.ofCode_of_legal {d : BitVec 3} (h : 1 ≤ d.toNat ∧ d.toNat ≤ 4) :
    ∃ dir, Direction.ofCode d = some dir ∧ dir.code = d := by
  have named : ∀ d : BitVec 3, 1 ≤ d.toNat ∧ d.toNat ≤ 4 → (Direction.ofCode d).map Direction.code = some d := by decide
  exact Option.map_eq_some_iff.mp (named d h)

theorem Direction.ofStepCode_of_legal {d : BitVec 3} (h : 1 ≤ d.toNat ∧ d.toNat ≤ 2) :
    ∃ dir, Direction.ofStepCode d = some dir ∧ dir.code = d := by
  have named : ∀ d : BitVec 3, 1 ≤ d.toNat ∧ d.toNat ≤ 2 → (Direction.ofStepCode d).map Direction.code = some d := by
    decide
  exact Option.map_eq_some_iff.mp (named d h)

theorem Style.ofCode_of_legal {y : BitVec 3} (h : 1 ≤ y.toNat ∧ y.toNat ≤ 4) :
    ∃ sty, Style.ofCode y = some sty ∧ sty.code = y := by
  have named : ∀ y : BitVec 3, 1 ≤ y.toNat ∧ y.toNat ≤ 4 → (Style.ofCode y).map Style.code = some y := by decide
  exact Option.map_eq_some_iff.mp (named y h)

end Sys2Proof
end

section
/-! PROOF. The decode procedure, check by check, and the worked encodings (spec/30_encoding.md R111, R114). -/

namespace Sys2Proof.Machine

/-! ### Opcode and must-be-zero bits -/

theorem decodeWord_of_illegal_opcode {w : Word} (h : (fieldOP w).toNat = 0 ∨ 12 ≤ (fieldOP w).toNat) :
    decodeWord w = .error .illegalOpcode := by
  rw [decodeWord, Op.ofCode_eq_none h]

/-- A word with a row's opcode has its must-be-zero bits checked first, then its fields. -/
theorem decodeWord_of_opcode {w : Word} {op : Op} (hop : fieldOP w = op.code) :
    decodeWord w = if w &&& op.maskBits = op.matchBits then decodeFields op w else .error .reservedField := by
  rw [decodeWord, hop, Op.ofCode_code]

/-! ### The field checks, in order -/

theorem decodeFields_of_illegal_idx {op : Op} {w : Word} (hi : idxLegal op (fieldIDX w) = false) :
    decodeFields op w = .error .badIndex := by
  cases op
  case enable | writeLatch => nomatch hi
  case setDuty => rw [decodeFields, Channel.ofIdx_eq_none (of_decide_eq_false hi)]; rfl
  case dcInit | dcRun | dcSpeed => rw [decodeFields, Motor.ofIdx_eq_none (of_decide_eq_false hi)]; rfl
  case stepperInit | stepperSpeed | onestep | step | release =>
    rw [decodeFields, Stepper.ofIdx_eq_none (of_decide_eq_false hi)]; rfl

theorem decodeFields_of_illegal_dir {op : Op} {w : Word} (hi : idxLegal op (fieldIDX w) = true)
    (hd : dirLegal op (fieldDIR w) = false) : decodeFields op w = .error .badDirection := by
  cases op
  case enable | writeLatch | setDuty | dcInit | dcSpeed | stepperInit | stepperSpeed | release => nomatch hd
  case dcRun =>
    obtain ⟨n, hn, -⟩ := Motor.ofIdx_of_legal (of_decide_eq_true hi)
    rw [decodeFields, hn, Direction.ofCode_eq_none (of_decide_eq_false hd)]; rfl
  case onestep | step =>
    obtain ⟨st, hst, -⟩ := Stepper.ofIdx_of_legal (of_decide_eq_true hi)
    rw [decodeFields, hst, Direction.ofStepCode_eq_none (of_decide_eq_false hd)]; rfl

theorem decodeFields_of_illegal_sty {op : Op} {w : Word} (hi : idxLegal op (fieldIDX w) = true)
    (hd : dirLegal op (fieldDIR w) = true) (hy : styLegal op (fieldSTY w) = false) :
    decodeFields op w = .error .badStyle := by
  cases op
  case enable | writeLatch | setDuty | dcInit | dcRun | dcSpeed | stepperInit | stepperSpeed | release => nomatch hy
  case onestep | step =>
    obtain ⟨st, hst, -⟩ := Stepper.ofIdx_of_legal (of_decide_eq_true hi)
    obtain ⟨dir, hdir, -⟩ := Direction.ofStepCode_of_legal (of_decide_eq_true hd)
    rw [decodeFields, hst, hdir, Style.ofCode_eq_none (of_decide_eq_false hy)]; rfl

/-- A word of a row whose codes are legal is the encoding of a command of the row. -/
theorem decodeFields_of_legal {op : Op} {w : Word} (hop : fieldOP w = op.code)
    (hm : w &&& op.maskBits = op.matchBits) (hi : idxLegal op (fieldIDX w) = true)
    (hd : dirLegal op (fieldDIR w) = true) (hy : styLegal op (fieldSTY w) = true) :
    ∃ i, decodeFields op w = .ok i ∧ i.op = op ∧ encode i = w := by
  cases op
  case enable =>
    exact ⟨.enable, rfl, rfl,
      wordOf_eq_of_idx_imm hm hop rfl rfl (fieldIDX_eq_zero hm rfl) (fieldIMM16_eq_zero hm rfl)⟩
  case writeLatch =>
    exact ⟨.writeLatch (fieldIMM8 w), rfl, rfl,
      wordOf_eq_of_idx_imm hm hop rfl rfl (fieldIDX_eq_zero hm rfl) (fieldIMM16_eq_imm8 hm rfl)⟩
  case setDuty =>
    obtain ⟨ch, hch, hidx⟩ := Channel.ofIdx_of_legal (of_decide_eq_true hi)
    exact ⟨.setDuty ch (fieldIMM8 w), by rw [decodeFields, hch]; rfl, rfl,
      wordOf_eq_of_idx_imm hm hop rfl rfl hidx.symm (fieldIMM16_eq_imm8 hm rfl)⟩
  case dcInit =>
    obtain ⟨n, hn, hidx⟩ := Motor.ofIdx_of_legal (of_decide_eq_true hi)
    exact ⟨.dcInit n, by rw [decodeFields, hn]; rfl, rfl,
      wordOf_eq_of_idx_imm hm hop rfl rfl hidx.symm (fieldIMM16_eq_zero hm rfl)⟩
  case dcRun =>
    obtain ⟨n, hn, hidx⟩ := Motor.ofIdx_of_legal (of_decide_eq_true hi)
    obtain ⟨dir, hdir, hcode⟩ := Direction.ofCode_of_legal (of_decide_eq_true hd)
    exact ⟨.dcRun n dir, by rw [decodeFields, hn, hdir]; rfl, rfl, wordOf_eq_of_fields hop hidx.symm hcode.symm
      (fieldSTY_eq_zero hm rfl) (fieldRSV_eq_zero hm) (fieldIMM16_eq_zero hm rfl)⟩
  case dcSpeed =>
    obtain ⟨n, hn, hidx⟩ := Motor.ofIdx_of_legal (of_decide_eq_true hi)
    exact ⟨.dcSpeed n (fieldIMM8 w), by rw [decodeFields, hn]; rfl, rfl,
      wordOf_eq_of_idx_imm hm hop rfl rfl hidx.symm (fieldIMM16_eq_imm8 hm rfl)⟩
  case stepperInit =>
    obtain ⟨st, hst, hidx⟩ := Stepper.ofIdx_of_legal (of_decide_eq_true hi)
    exact ⟨.stepperInit st (fieldIMM16 w), by rw [decodeFields, hst]; rfl, rfl,
      wordOf_eq_of_idx_imm hm hop rfl rfl hidx.symm rfl⟩
  case stepperSpeed =>
    obtain ⟨st, hst, hidx⟩ := Stepper.ofIdx_of_legal (of_decide_eq_true hi)
    exact ⟨.stepperSpeed st (fieldIMM16 w), by rw [decodeFields, hst]; rfl, rfl,
      wordOf_eq_of_idx_imm hm hop rfl rfl hidx.symm rfl⟩
  case onestep =>
    obtain ⟨st, hst, hidx⟩ := Stepper.ofIdx_of_legal (of_decide_eq_true hi)
    obtain ⟨dir, hdir, hcode⟩ := Direction.ofStepCode_of_legal (of_decide_eq_true hd)
    obtain ⟨sty, hsty, hstyle⟩ := Style.ofCode_of_legal (of_decide_eq_true hy)
    exact ⟨.onestep st dir sty, by rw [decodeFields, hst, hdir, hsty]; rfl, rfl, wordOf_eq_of_fields hop hidx.symm
      hcode.symm hstyle.symm (fieldRSV_eq_zero hm) (fieldIMM16_eq_zero hm rfl)⟩
  case step =>
    obtain ⟨st, hst, hidx⟩ := Stepper.ofIdx_of_legal (of_decide_eq_true hi)
    obtain ⟨dir, hdir, hcode⟩ := Direction.ofStepCode_of_legal (of_decide_eq_true hd)
    obtain ⟨sty, hsty, hstyle⟩ := Style.ofCode_of_legal (of_decide_eq_true hy)
    exact ⟨.step st (fieldIMM16 w) dir sty, by rw [decodeFields, hst, hdir, hsty]; rfl, rfl,
      wordOf_eq_of_fields hop hidx.symm hcode.symm hstyle.symm (fieldRSV_eq_zero hm) rfl⟩
  case release =>
    obtain ⟨st, hst, hidx⟩ := Stepper.ofIdx_of_legal (of_decide_eq_true hi)
    exact ⟨.release st, by rw [decodeFields, hst]; rfl, rfl,
      wordOf_eq_of_idx_imm hm hop rfl rfl hidx.symm (fieldIMM16_eq_zero hm rfl)⟩

/-- Settles O3: the opcode and the must-be-zero bits select the row, whose field checks come in the order of R111. -/
theorem decodeChecksComeInOrder : Obligations.DecodeChecksComeInOrder := by
  intro w
  refine ⟨decodeWord_of_illegal_opcode, fun op hop => ?_⟩
  rw [decodeWord_of_opcode hop]
  refine ⟨fun hm => if_neg hm, fun hm => ?_⟩
  rw [if_pos hm]
  exact ⟨decodeFields_of_illegal_idx, fun hi => ⟨decodeFields_of_illegal_dir hi, fun hd =>
    ⟨decodeFields_of_illegal_sty hi hd, decodeFields_of_legal hop hm hi hd⟩⟩⟩

/-- Settles O4: each pair of command and word of R114 is computed, both ways. -/
theorem workedEncodings : Obligations.WorkedEncodings :=
  ⟨⟨rfl, rfl⟩, ⟨rfl, rfl⟩, ⟨rfl, rfl⟩, ⟨rfl, rfl⟩, ⟨rfl, rfl⟩, ⟨rfl, rfl⟩, ⟨rfl, rfl⟩, ⟨rfl, rfl⟩, ⟨rfl, rfl⟩,
    ⟨rfl, rfl⟩, ⟨rfl, rfl⟩⟩

end Sys2Proof.Machine
end

section
/-! SUPPORT. The latch and PWM family: what the external register shows during a transfer (spec/40_latch_pwm.md R145 to
R149) and what a PWM pin does over one period (R160, R161). -/

namespace Sys2Proof.Machine

/-! ### The external register during a transfer -/

/-- The sixteen edges after `T` do not touch `out_q`: `RCLK` stays low (R146). -/
theorem clockEdges_transfer_outQ (v : Byte) (ups : List Update) (s : State) {k : Nat} (h : k ≤ 16) :
    (clockEdges k (startTransfer v ups s)).outQ = s.outQ := by
  rw [clockEdges_transfer v ups s k h]; rfl

/-- Eight bits have been shifted in, so nothing is left of what `sr` held (R149). -/
theorem clockEdges_transfer_sr (v : Byte) (ups : List Update) (s : State) :
    (clockEdges 16 (startTransfer v ups s)).sr = v := by
  rw [clockEdges_transfer v ups s 16 le_rfl, xferAt_sixteen]; rfl

@[simp] theorem transact_outQ (v : Byte) (ups : List Update) (s : State) : (transact v ups s).outQ = v := by
  simp [transact_eq, afterPins]

/-- The commit edge shows the byte sent (R146). -/
theorem clockEdges_commit_outQ (v : Byte) (ups : List Update) (s : State) :
    (clockEdges 17 (startTransfer v ups s)).outQ = v := by
  rw [clockEdges_transact]; exact transact_outQ v ups s

/-- Settles O18: `out_q` waits for the commit edge, which copies a shift stage that holds the whole byte. -/
theorem transferShowsAllBitsAtOnce : Obligations.TransferShowsAllBitsAtOnce := by
  intro s v ups
  have hcommit := clockEdges_commit_outQ v ups s
  exact ⟨fun k hk => clockEdges_transfer_outQ v ups s hk, clockEdges_transfer_sr v ups s, hcommit,
    fun k _ => by rw [hcommit]⟩

/-! ### A PWM pin over one period -/

/-- Where a channel has PWM its pin compares the counter with the active duty (R161). -/
theorem pwmPin_of_present {s : State} {ch : Channel} (h : getChannel s.cfg.pwmPresent ch = true) :
    pwmPin s ch = decide (getChannel s.pwmCnt ch < (getChannel s.pwmActive ch).toNat) := if_pos h

/-- A tick of the channel's group moves its counter on (R160). -/
theorem pwmTick_pwmCnt (s : State) (ch : Channel) :
    getChannel (pwmTick (channelGroup ch) s).pwmCnt ch = nextCount (getChannel s.pwmCnt ch) := by
  cases ch <;> rfl

/-- A tick of the channel's group loads its active duty, or keeps it (R160). -/
theorem pwmTick_pwmActive (s : State) (ch : Channel) :
    getChannel (pwmTick (channelGroup ch) s).pwmActive ch =
      nextActive (getChannel s.pwmCnt ch) (getChannel s.pwmActive ch) (getChannel s.duty ch) := by
  cases ch <;> rfl

@[simp] theorem pwmTicks_cfg (g : Group) (k : Nat) (s : State) : (pwmTicks g k s).cfg = s.cfg := by
  induction k generalizing s with
  | zero => rfl
  | succ k ih => exact ih (pwmTick g s)

/-- Ticks that do not wrap the counter add up in it and keep the active duty (R160). -/
theorem pwmTicks_before_wrap {ch : Channel} {k : Nat} {s : State} (h : getChannel s.pwmCnt ch + k ≤ 254) :
    getChannel (pwmTicks (channelGroup ch) k s).pwmCnt ch = getChannel s.pwmCnt ch + k ∧
      getChannel (pwmTicks (channelGroup ch) k s).pwmActive ch = getChannel s.pwmActive ch := by
  induction k generalizing s with
  | zero => exact ⟨rfl, rfl⟩
  | succ k ih =>
    have hne : getChannel s.pwmCnt ch ≠ 254 := by omega
    have hcnt : getChannel (pwmTick (channelGroup ch) s).pwmCnt ch = getChannel s.pwmCnt ch + 1 :=
      (pwmTick_pwmCnt s ch).trans (if_neg hne)
    have hactive : getChannel (pwmTick (channelGroup ch) s).pwmActive ch = getChannel s.pwmActive ch :=
      (pwmTick_pwmActive s ch).trans (if_neg hne)
    obtain ⟨hk, ha⟩ := ih (s := pwmTick (channelGroup ch) s) (by omega)
    exact ⟨by rw [pwmTicks, hk, hcnt]; omega, by rw [pwmTicks, ha, hactive]⟩

/-- Tick `k` of a period that starts at counter 0: the pin is high while `k` is below the active duty (R161). -/
theorem pwmPin_pwmTicks {s : State} {ch : Channel} (hp : getChannel s.cfg.pwmPresent ch = true)
    (h0 : getChannel s.pwmCnt ch = 0) {k : Nat} (hk : k < 255) :
    pwmPin (pwmTicks (channelGroup ch) k s) ch = decide (k < (getChannel s.pwmActive ch).toNat) := by
  obtain ⟨hcnt, hactive⟩ := pwmTicks_before_wrap (ch := ch) (k := k) (s := s) (by omega)
  rw [pwmPin_of_present (by rwa [pwmTicks_cfg]), hcnt, hactive, h0, Nat.zero_add]

/-- Settles O48: in a period the counter runs through 0 to 254 under one active duty, so the high ticks are the numbers
below that duty, which is at most 255. -/
theorem pwmPinIsHighForTheDuty : Obligations.PwmPinIsHighForTheDuty := by
  intro s ch hp
  refine ⟨by rw [pwmPin_of_present hp, decide_eq_true_iff], fun h0 => ?_⟩
  have hduty : (getChannel s.pwmActive ch).toNat ≤ 255 := Nat.le_of_lt_succ (BitVec.isLt _)
  have hticks := List.filter_congr fun k hk => pwmPin_pwmTicks hp h0 (List.mem_range.mp hk)
  rw [hticks, ← List.Ico.zero_bot, List.Ico.filter_lt_of_ge hduty, List.Ico.length, Nat.sub_zero]

end Sys2Proof.Machine
end

section
/-! PROOF. What DC_RUN leaves of `latch_state`, and the bit pairs it writes with the default bit map
(spec/41_dc_motor.md R181, R183, R185). -/

namespace Sys2Proof.Machine

/-- DC_RUN of a constructed slot on an enabled block is one transfer (R183). -/
theorem planDcRun_pass {n : Motor} {dir : Direction} {s : State} (hen : s.enabled = true)
    (hn : getMotor s.dcInit n = true) :
    planDcRun n dir s =
      .transfer (mergeBits s.latchState (maskDC s.cfg n) (dcBits s.cfg n dir))
        ([.latchState (mergeBits s.latchState (maskDC s.cfg n) (dcBits s.cfg n dir))] ++ dcDutyUpdates n dir ++
          [.busyClear]) :=
  (needEnabled_pass _ hen).trans (needMotor_pass _ hn)

/-- A completed DC_RUN leaves the direction's pair merged into `latch_state` (R80, R183). -/
theorem perform_planDcRun_latchState {n : Motor} {dir : Direction} {s : State} (hen : s.enabled = true)
    (hn : getMotor s.dcInit n = true) :
    (perform (planDcRun n dir s) s).latchState =
      mergeBits s.latchState (maskDC s.cfg n) (dcBits s.cfg n dir) := by
  rw [planDcRun_pass hen hn, perform_transfer, transact_eq]
  cases dir <;> rfl

/-- DC_RUN of a constructed slot on an enabled block puts the direction's pair in the slot's bits and keeps every other
bit, whatever the layout (R181, R183). -/
theorem exec_dcRun_latchState {n : Motor} (dir : Direction) {s : State} (hen : s.enabled = true)
    (hn : getMotor s.dcInit n = true) :
    ∃ t, exec (.dcRun n dir) s = .next t ∧ t.latchState &&& maskDC s.cfg n = dcBits s.cfg n dir ∧
      t.latchState &&& ~~~maskDC s.cfg n = s.latchState &&& ~~~maskDC s.cfg n := by
  have hlatch := perform_planDcRun_latchState (dir := dir) hen hn
  have hinside := dcBits_outside s.cfg n dir
  exact ⟨_, exec_eq_perform _ _, (congrArg (· &&& _) hlatch).trans (mergeBits_inside _ _ _ hinside),
    (congrArg (· &&& _) hlatch).trans (mergeBits_outside _ _ _ hinside)⟩

/-- Settles O23: DC_RUN writes the pair of `dcBits` in any layout, and the rows of the table are the default layout's
bits A, B and both. -/
theorem dcRunDefaultBits : Obligations.DcRunDefaultBits := by
  intro s hmap hen row hrow
  obtain ⟨ha, hb, hmask⟩ :
      bitA s.cfg row.1 = row.2.1 ∧ bitB s.cfg row.1 = row.2.2.1 ∧ maskDC s.cfg row.1 = row.2.2.2 := by
    simp only [maskDC, bitA, bitB, hmap]
    revert row
    decide
  intro hn dir
  obtain ⟨t, hexec, hin, hout⟩ := exec_dcRun_latchState dir hen hn
  rw [hmask] at hin hout
  refine ⟨t, hexec, hin.trans ?_, hout⟩
  cases dir with
  | forward => exact ha
  | backward => exact hb
  | brake => exact hmask
  | release => rfl

end Sys2Proof.Machine
end

section
/-! SUPPORT. The arithmetic of the phase: a stride counts one entry of a style's table, and `k` steps of one style move the
phase `k` strides and the style index `k` entries (spec/42_stepper.md R201, R204, R205, R240). -/

namespace Sys2Proof.Machine

/-! ### Strides and table entries (R204, R205) -/

theorem microsteps_pos (c : Params) : 0 < microsteps c := by unfold microsteps; cases c.resolution <;> decide

theorem stride_pos (c : Params) (sty : Style) : 0 < stride c sty := by
  unfold stride microsteps; cases sty <;> cases c.resolution <;> decide

theorem tableLength_pos (c : Params) (sty : Style) : 0 < tableLength c sty := by
  unfold tableLength phases microsteps; cases sty <;> cases c.resolution <;> decide

/-- A table covers one electrical revolution (R205). -/
theorem stride_mul_tableLength (c : Params) (sty : Style) : stride c sty * tableLength c sty = phases c := by
  unfold stride tableLength phases microsteps; cases sty <;> cases c.resolution <;> rfl

theorem stride_le_phases (c : Params) (sty : Style) : stride c sty ≤ phases c :=
  stride_mul_tableLength c sty ▸ Nat.le_mul_of_pos_right _ (tableLength_pos c sty)

/-- The table index of a phase is its number of whole strides (R205). -/
theorem styleIndex_eq_div (c : Params) (sty : Style) (p : Byte) : styleIndex c sty p = p.toNat / stride c sty := by
  cases sty with
  | microstep => exact (Nat.div_one _).symm
  | _ => rfl

/-- The table index of a phase in range is one of the table (R205). -/
theorem styleIndex_lt (c : Params) (sty : Style) {p : Byte} (hp : p.toNat < phases c) :
    styleIndex c sty p < tableLength c sty := by
  rw [styleIndex_eq_div]
  exact Nat.div_lt_of_lt_mul ((stride_mul_tableLength c sty).symm ▸ hp)

/-! ### The phase after many steps (R240) -/

/-- The table entries one step moves on, counted forward: a step back is all entries but one. -/
def entriesPerStep (c : Params) (sty : Style) : Direction → Nat
  | .forward => 1
  | .backward => tableLength c sty - 1
  | .brake => 0
  | .release => 0

/-- A phase is in range after any number of strides (R201). -/
theorem phaseAfter_lt (c : Params) (dir : Direction) (sty : Style) {p : Byte} (k : Nat) (hp : p.toNat < phases c) :
    phaseAfter c dir sty p k < phases c := by
  have hpos : 0 < phases c := Nat.zero_lt_of_lt hp
  cases dir with
  | forward => exact Nat.mod_lt _ hpos
  | backward => exact Nat.mod_lt _ hpos
  | brake => exact hp
  | release => exact hp

/-- `k` steps move the phase `k * entriesPerStep` strides forward, modulo a revolution (R240). -/
theorem phaseAfter_eq_mod (c : Params) (dir : Direction) (sty : Style) {p : Byte} (k : Nat) (hp : p.toNat < phases c) :
    phaseAfter c dir sty p k = (p.toNat + k * entriesPerStep c sty dir * stride c sty) % phases c := by
  have hback : phases c - stride c sty = (tableLength c sty - 1) * stride c sty := by
    rw [Nat.sub_one_mul, Nat.mul_comm, stride_mul_tableLength]
  cases dir with
  | forward => rw [phaseAfter, entriesPerStep, Nat.mul_one]
  | backward => rw [phaseAfter, entriesPerStep, hback, Nat.mul_assoc]
  | brake => simp [phaseAfter, entriesPerStep, Nat.mod_eq_of_lt hp]
  | release => simp [phaseAfter, entriesPerStep, Nat.mod_eq_of_lt hp]

/-- The byte of a phase in range holds the phase. -/
theorem toNat_ofNat_phase {c : Params} {x : Nat} (hx : x < phases c) : (BitVec.ofNat 8 x).toNat = x := by
  have hc := phases_cases c
  exact Nat.mod_eq_of_lt (show x < 2 ^ 8 by omega)

/-- After no step the phase is what it was. -/
theorem ofNat_phaseAfter_zero (c : Params) (dir : Direction) (sty : Style) {p : Byte} (hp : p.toNat < phases c) :
    BitVec.ofNat 8 (phaseAfter c dir sty p 0) = p := by
  rw [phaseAfter_eq_mod c dir sty 0 hp, Nat.zero_mul, Nat.zero_mul, Nat.add_zero, Nat.mod_eq_of_lt hp,
    BitVec.ofNat_toNat, BitVec.setWidth_eq]

/-- One more step is one more stride (R214). -/
theorem nextPhase_phaseAfter {c : Params} {dir : Direction} (sty : Style) {p : Byte} (k : Nat)
    (hdir : dir.steps = true) (hp : p.toNat < phases c) :
    nextPhase c dir sty (BitVec.ofNat 8 (phaseAfter c dir sty p k)) =
      BitVec.ofNat 8 (phaseAfter c dir sty p (k + 1)) := by
  have hk : (BitVec.ofNat 8 (phaseAfter c dir sty p k)).toNat = phaseAfter c dir sty p k :=
    toNat_ofNat_phase (phaseAfter_lt c dir sty k hp)
  cases dir with
  | forward =>
    rw [nextPhase, hk, phaseAfter, phaseAfter, Nat.mod_add_mod, Nat.add_assoc, Nat.succ_mul]
  | backward =>
    rw [nextPhase, hk, phaseAfter, phaseAfter, Nat.add_sub_assoc (stride_le_phases c sty), Nat.mod_add_mod,
      Nat.add_assoc, Nat.succ_mul]
  | brake => cases hdir
  | release => cases hdir

/-- `k` steps move the style index `k * entriesPerStep` entries, modulo the table's length (R240). -/
theorem styleIndex_phaseAfter (c : Params) (dir : Direction) (sty : Style) {p : Byte} (k : Nat)
    (hp : p.toNat < phases c) :
    styleIndex c sty (BitVec.ofNat 8 (phaseAfter c dir sty p k)) =
      (styleIndex c sty p + k * entriesPerStep c sty dir) % tableLength c sty := by
  rw [styleIndex_eq_div, styleIndex_eq_div, toNat_ofNat_phase (phaseAfter_lt c dir sty k hp),
    phaseAfter_eq_mod c dir sty k hp, ← stride_mul_tableLength c sty, Nat.mod_mul_right_div_self,
    Nat.add_mul_div_right _ _ (stride_pos c sty)]

/-- `k` times all but one of `m` entries forward are `k` entries back. -/
theorem int_mod_entries_back {m : Nat} (hm : 0 < m) (x k w : Nat) :
    (((x + k * (m - 1) * w) % (m * w) : Nat) : Int) = ((x : Int) - k * w) % ((m * w : Nat) : Int) := by
  obtain ⟨m, rfl⟩ : ∃ j, m = j + 1 := ⟨m - 1, by omega⟩
  have hsum : ((x + k * (m + 1 - 1) * w : Nat) : Int) = (x : Int) - k * w + k * (((m + 1) * w : Nat) : Int) := by
    push_cast
    ring
  rw [Int.natCast_mod, hsum, Int.add_mul_emod_self_right]

/-- As many strides back as forward lead back (R241). -/
theorem phaseAfter_backward_forward (c : Params) (sty : Style) {p : Byte} (k : Nat) (hp : p.toNat < phases c) :
    phaseAfter c .backward sty (BitVec.ofNat 8 (phaseAfter c .forward sty p k)) k = p.toNat := by
  have hturns : p.toNat + k * stride c sty + k * (phases c - stride c sty) = p.toNat + k * phases c := by
    rw [Nat.add_assoc, ← Nat.mul_add, Nat.add_sub_of_le (stride_le_phases c sty)]
  have hforward := toNat_ofNat_phase (phaseAfter_lt c .forward sty k hp)
  show ((BitVec.ofNat 8 (phaseAfter c .forward sty p k)).toNat + k * (phases c - stride c sty)) % phases c = p.toNat
  rw [hforward, phaseAfter, Nat.mod_add_mod, hturns, Nat.add_mul_mod_self_right, Nat.mod_eq_of_lt hp]

end Sys2Proof.Machine
end

section
/-! PROOF. The stepping tables as latch bits, the output of a phase, and the drive of a stepper's two coils
(spec/42_stepper.md R202 to R213, R244). -/

namespace Sys2Proof.Machine

/-! ### The tables as latch bits (R206, R207) -/

theorem single4_map_coilBits (c : Params) (st : Stepper) :
    single4.map (coilBits c st) =
      [bitA c (coil1 st), bitA c (coil2 st), bitB c (coil1 st), bitB c (coil2 st)] := by
  simp [single4, coilBits, coilBit]

theorem double4_map_coilBits (c : Params) (st : Stepper) :
    double4.map (coilBits c st) =
      [bitA c (coil1 st) ||| bitA c (coil2 st), bitA c (coil2 st) ||| bitB c (coil1 st),
        bitB c (coil1 st) ||| bitB c (coil2 st), bitB c (coil2 st) ||| bitA c (coil1 st)] := by
  simp [double4, coilBits, coilBit]

theorem interleave8_map_coilBits (c : Params) (st : Stepper) :
    interleave8.map (coilBits c st) =
      [bitA c (coil1 st), bitA c (coil1 st) ||| bitA c (coil2 st), bitA c (coil2 st),
        bitA c (coil2 st) ||| bitB c (coil1 st), bitB c (coil1 st), bitB c (coil1 st) ||| bitB c (coil2 st),
        bitB c (coil2 st), bitB c (coil2 st) ||| bitA c (coil1 st)] := by
  simp [interleave8, coilBits, coilBit]

/-- Settles O41: the entries as unions of `LATCH_BIT` bits, and the values of those bits in the default map. -/
theorem patternTablesDefault : Obligations.PatternTablesDefault := by
  intro c hmap
  simp only [single4_map_coilBits, double4_map_coilBits, interleave8_map_coilBits, bitA, bitB, hmap]
  decide

/-- An entry of a table, as latch bits, is that entry of the table of latch bits; past its end there is no bit. -/
theorem coilBits_getD (c : Params) (st : Stepper) (table : List (List Coil)) (i : Nat) :
    coilBits c st (table.getD i []) = (table.map (coilBits c st)).getD i 0 :=
  (List.getD_map table [] (coilBits c st)).symm

/-! ### What a phase sets are bits of the stepper (R202, R213) -/

theorem and_not_or_eq_zero {x m : Byte} (n : Byte) (h : x &&& ~~~m = 0) : x &&& ~~~(m ||| n) = 0 := by
  rw [BitVec.not_or, ← BitVec.and_assoc, h]
  exact BitVec.zero_and

/-- The mask is the union of the four letters' bits (R202). -/
theorem maskST_eq_union (c : Params) (st : Stepper) :
    maskST c st = bitA c (coil1 st) ||| bitA c (coil2 st) ||| bitB c (coil1 st) ||| bitB c (coil2 st) := by
  unfold maskST maskDC
  ac_rfl

theorem coilBit_outside (c : Params) (st : Stepper) (l : Coil) : coilBit c st l &&& ~~~maskST c st = 0 := by
  have hcoil1 (dir : Direction) : dcBits c (coil1 st) dir &&& ~~~maskST c st = 0 :=
    and_not_or_eq_zero _ (dcBits_outside c (coil1 st) dir)
  have hcoil2 (dir : Direction) : dcBits c (coil2 st) dir &&& ~~~maskST c st = 0 := by
    rw [maskST, BitVec.or_comm]
    exact and_not_or_eq_zero _ (dcBits_outside c (coil2 st) dir)
  cases l with
  | a => exact hcoil1 .forward
  | b => exact hcoil2 .forward
  | c => exact hcoil1 .backward
  | d => exact hcoil2 .backward

theorem coilBits_outside (c : Params) (st : Stepper) (entry : List Coil) :
    coilBits c st entry &&& ~~~maskST c st = 0 := by
  refine List.foldlRecOn entry _ (motive := fun x => x &&& ~~~maskST c st = 0) BitVec.zero_and fun x hx l _ => ?_
  rw [BitVec.and_comm, BitVec.and_or_distrib_left, BitVec.and_comm, hx, BitVec.and_comm, coilBit_outside]
  rfl

@[simp] theorem microstepOut_set (c : Params) (st : Stepper) (q r : Nat) :
    (microstepOut c st q r).set = coilBits c st (double4.getD q []) := by
  unfold microstepOut; dsimp only; split <;> rfl

theorem phaseOut_set_outside (c : Params) (st : Stepper) (p : Byte) (sty : Style) :
    (phaseOut c st p sty).set &&& ~~~maskST c st = 0 := by
  cases sty with
  | microstep => rw [phaseOut, microstepOut_set]; exact coilBits_outside _ _ _
  | _ => exact coilBits_outside _ _ _

/-! ### The bits of a shown entry, in a layout without collisions (R24, R203) -/

/-- Where the latch bit of a coil letter stands (R202). -/
def coilPos (c : Params) (st : Stepper) : Coil → Fin 8
  | .a => (getMotor c.latchBit (coil1 st)).a
  | .b => (getMotor c.latchBit (coil2 st)).a
  | .c => (getMotor c.latchBit (coil1 st)).b
  | .d => (getMotor c.latchBit (coil2 st)).b

theorem coilBit_eq_bit (c : Params) (st : Stepper) (l : Coil) : coilBit c st l = bit (coilPos c st l) := by
  cases l <;> rfl

theorem getLsbD_bit : ∀ i j : Fin 8, (bit i).getLsbD j.val = decide (i = j) := by decide

/-- The mask covers every letter's bit. -/
theorem getLsbD_maskST_coilPos (c : Params) (st : Stepper) (l : Coil) :
    (maskST c st).getLsbD (coilPos c st l).val = true := by
  have h := congrArg (fun x : Byte => x.getLsbD (coilPos c st l).val) (coilBit_outside c st l)
  simpa [coilBit_eq_bit, getLsbD_bit] using h

/-- Of the stepper's own bits, a byte shows what was set last (R80). -/
theorem getLsbD_mergeBits_coilPos (c : Params) (st : Stepper) (l : Coil) (old : Byte) {set : Byte}
    (h : set &&& ~~~maskST c st = 0) :
    (mergeBits old (maskST c st) set).getLsbD (coilPos c st l).val = set.getLsbD (coilPos c st l).val := by
  have hin := congrArg (fun x : Byte => x.getLsbD (coilPos c st l).val) (mergeBits_inside old _ set h)
  simpa only [BitVec.getLsbD_and, getLsbD_maskST_coilPos, Bool.and_true] using hin

/-- What a table entry makes of the coil with the letters `pos` and `neg` at a duty (R203, R244). -/
def entryDrive (entry : List Coil) (duty : Byte) (pos neg : Coil) : Polarity :=
  if duty = 0 then .off
  else match decide (pos ∈ entry), decide (neg ∈ entry) with
    | false, false => .off
    | true, false => .positive
    | false, true => .negative
    | true, true => .both

/-- At any duty above 0 a coil is driven as at full duty. -/
theorem entryDrive_of_ne_zero (entry : List Coil) {duty : Byte} (pos neg : Coil) (h : duty ≠ 0) :
    entryDrive entry duty pos neg = entryDrive entry 255 pos neg := (if_neg h).trans (if_neg (by decide)).symm

section
variable {c : Params} (hl : (latchBits c).Nodup)
include hl

/-- Different letters of a stepper have different bits (R24). -/
theorem coilPos_inj {st : Stepper} {l m : Coil} : coilPos c st l = coilPos c st m ↔ l = m := by
  have hnodup : ([Coil.a, .c, .b, .d].map (coilPos c st)).Nodup := by
    cases st with
    | s1 => exact hl.sublist (List.sublist_append_left _ [_, _, _, _])
    | s2 => exact hl.sublist (List.sublist_append_right [_, _, _, _] _)
  have hmem (l : Coil) : l ∈ [Coil.a, .c, .b, .d] := by cases l <;> decide
  exact ⟨List.inj_on_of_nodup_map hnodup (hmem l) (hmem m), congrArg _⟩

theorem getLsbD_coilBits (st : Stepper) (l : Coil) (entry : List Coil) :
    (coilBits c st entry).getLsbD (coilPos c st l).val = decide (l ∈ entry) := by
  have hfold (acc : Byte) : (entry.foldl (fun acc l => acc ||| coilBit c st l) acc).getLsbD (coilPos c st l).val =
      (acc.getLsbD (coilPos c st l).val || decide (l ∈ entry)) := by
    induction entry generalizing acc with
    | nil => simp
    | cons m entry ih =>
      rw [List.foldl_cons, ih, BitVec.getLsbD_or, coilBit_eq_bit, getLsbD_bit]
      simp [coilPos_inj hl, eq_comm, Bool.or_assoc]
  simpa [coilBits] using hfold 0

theorem effectiveDrive_coil1 (st : Stepper) (old duty : Byte) (entry : List Coil) :
    effectiveDrive c (mergeBits old (maskST c st) (coilBits c st entry)) duty (coil1 st) =
      entryDrive entry duty .a .c := by
  have hbit (l : Coil) := (getLsbD_mergeBits_coilPos c st l old (coilBits_outside c st entry)).trans
    (getLsbD_coilBits hl st l entry)
  rw [entryDrive, ← hbit, ← hbit]
  rfl

theorem effectiveDrive_coil2 (st : Stepper) (old duty : Byte) (entry : List Coil) :
    effectiveDrive c (mergeBits old (maskST c st) (coilBits c st entry)) duty (coil2 st) =
      entryDrive entry duty .b .d := by
  have hbit (l : Coil) := (getLsbD_mergeBits_coilPos c st l old (coilBits_outside c st entry)).trans
    (getLsbD_coilBits hl st l entry)
  rw [entryDrive, ← hbit, ← hbit]
  rfl

end

/-! ### The output of a phase by quadrant and offset (R210, R213) -/

section
variable {c : Params} {q r : Nat} (hq : q < 4) (hr : r < microsteps c)
include hq hr

theorem toNat_ofNat_quadrant : (BitVec.ofNat 8 (q * microsteps c + r)).toNat = q * microsteps c + r := by
  refine toNat_ofNat_phase (c := c) ?_
  have hmul : q * microsteps c ≤ 3 * microsteps c := Nat.mul_le_mul_right _ (by omega)
  unfold phases
  omega

theorem quadrant_div : (BitVec.ofNat 8 (q * microsteps c + r)).toNat / microsteps c = q := by
  rw [toNat_ofNat_quadrant hq hr, Nat.mul_comm, Nat.mul_add_div (microsteps_pos c), Nat.div_eq_of_lt hr, Nat.add_zero]

theorem quadrant_mod : (BitVec.ofNat 8 (q * microsteps c + r)).toNat % microsteps c = r := by
  rw [toNat_ofNat_quadrant hq hr, Nat.mul_comm, Nat.mul_add_mod, Nat.mod_eq_of_lt hr]

/-- MICROSTEP shows row `q` of the LUT at offset `r` (R210). -/
theorem phaseOut_microstep (st : Stepper) :
    phaseOut c st (BitVec.ofNat 8 (q * microsteps c + r)) .microstep = microstepOut c st q r := by
  rw [phaseOut, quadrant_div hq hr, quadrant_mod hq hr]

end

/-- At the start of a quadrant one coil is at full duty and the other off (R211, R244). -/
theorem microstepOut_full {c : Params} (hc : CurveLegal c) (st : Stepper) (k : Nat) :
    microstepOut c st k 0 =
      ⟨coilBits c st (double4.getD k []), if k % 2 = 0 then 255 else 0, if k % 2 = 0 then 0 else 255⟩ := by
  rw [microstepOut, Nat.sub_zero, hc.first, hc.last]
  split <;> rfl

/-- Half a quadrant on both coils have the same duty (R244). -/
theorem microstepOut_half (c : Params) (st : Stepper) (k : Nat) :
    microstepOut c st k (microsteps c / 2) =
      ⟨coilBits c st (double4.getD k []), curveAt c (microsteps c / 2), curveAt c (microsteps c / 2)⟩ := by
  have hhalf : microsteps c - microsteps c / 2 = microsteps c / 2 := by
    unfold microsteps; cases c.resolution <;> rfl
  rw [microstepOut, hhalf]
  exact ite_self _

theorem curveAt_half_ne_zero {c : Params} (hc : CurveLegal c) : curveAt c (microsteps c / 2) ≠ 0 := by
  have hhalf : 0 < microsteps c / 2 := by unfold microsteps; cases c.resolution <;> decide
  exact (BitVec.pos_iff_ne_zero _).1 (hc.positive _ hhalf (Nat.div_le_self _ 2))

/-! ### Every output, and continuity (R210, R213, R244) -/

/-- With the one coil off, the pair of a quadrant drives the motor as the quadrant's single bit does (R244). -/
theorem entryDrive_full : ∀ k < 4,
    entryDrive (double4.getD k []) (if k % 2 = 0 then 255 else 0) .a .c = entryDrive (single4.getD k []) 255 .a .c ∧
    entryDrive (double4.getD k []) (if k % 2 = 0 then 0 else 255) .b .d = entryDrive (single4.getD k []) 255 .b .d := by
  decide

/-- At full duty on both coils, the pair of a quadrant and its single bit drive the motor differently. -/
theorem entryDrive_double_ne_single : ∀ k < 4,
    ¬ (entryDrive (double4.getD k []) 255 .a .c = entryDrive (single4.getD k []) 255 .a .c ∧
      entryDrive (double4.getD k []) 255 .b .d = entryDrive (single4.getD k []) 255 .b .d) := by
  decide

/-- Settles O42: the rows are the tables' entries as latch bits; for the continuity, what a shown entry makes of a coil
depends on its letters alone, so that the four quadrants are compared as lists of letters. -/
theorem microstepIsContinuous : Obligations.MicrostepIsContinuous := by
  refine ⟨fun c st q r hq hr => ?_, fun c st l k hc hk => ?_⟩
  · intro M p a b c' d
    have hset (sty : Style) : (phaseOut c st p sty).set &&& ~~~(a ||| b ||| c' ||| d) = 0 :=
      maskST_eq_union c st ▸ phaseOut_set_outside c st p sty
    refine ⟨?_, ?_, ?_, ?_, hset⟩
    · rw [← single4_map_coilBits, ← coilBits_getD, ← quadrant_div hq hr]
      rfl
    · rw [← double4_map_coilBits, ← coilBits_getD, ← quadrant_div hq hr]
      rfl
    · rw [← interleave8_map_coilBits, ← coilBits_getD, ← toNat_ofNat_quadrant hq hr]
      rfl
    · rw [phaseOut_microstep hq hr, microstepOut, coilBits_getD, double4_map_coilBits]
      match q, hq with
      | 0, _ => rfl
      | 1, _ => rfl
      | 2, _ => rfl
      | 3, _ => rfl
  · intro show' atFull atHalf single double
    have hfull : atFull = _ :=
      (phaseOut_microstep hk (microsteps_pos c) st).trans (microstepOut_full hc.curve st k)
    have hhalf : atHalf = _ :=
      (phaseOut_microstep hk (Nat.div_lt_self (microsteps_pos c) (by decide)) st).trans (microstepOut_half c st k)
    have hduty := curveAt_half_ne_zero hc.curve
    have hdrive1 := effectiveDrive_coil1 hc.layout st l
    have hdrive2 := effectiveDrive_coil2 hc.layout st l
    rw [hfull, hhalf]
    refine ⟨?_, ?_, ?_, fun hshow => ?_, ⟨rfl, rfl, hduty⟩, ?_, ?_⟩
    · dsimp only; split <;> simp
    · exact (hdrive1 _ _).trans ((entryDrive_full k hk).1.trans (hdrive1 _ _).symm)
    · exact (hdrive2 _ _).trans ((entryDrive_full k hk).2.trans (hdrive2 _ _).symm)
    · refine entryDrive_double_ne_single k hk ⟨?_, ?_⟩
      · rw [← hdrive1, ← hdrive1]; exact congrArg (effectiveDrive c · 255 (coil1 st)) hshow
      · rw [← hdrive2, ← hdrive2]; exact congrArg (effectiveDrive c · 255 (coil2 st)) hshow
    · rw [hdrive1, hdrive1]; exact entryDrive_of_ne_zero _ _ _ hduty
    · rw [hdrive2, hdrive2]; exact entryDrive_of_ne_zero _ _ _ hduty

end Sys2Proof.Machine
end

section
/-! PROOF. What a completed ONESTEP and RELEASE leave, and many ONESTEPs in a row (spec/42_stepper.md R214, R220, R222,
R240, R243). -/

namespace Sys2Proof.Machine

/-! ### ONESTEP (R214, R220) -/

/-- ONESTEP of a constructed stepper on an enabled block is one transfer (R220). -/
theorem planOnestep_pass {st : Stepper} {dir : Direction} (sty : Style) {s : State} (hdir : dir.steps = true)
    (hen : s.enabled = true) (hst : getStepper s.stInit st = true) :
    planOnestep st dir sty s = .transfer (stepByte s st dir sty) (stepUpdates s st dir sty ++ [.busyClear]) :=
  (needStepDir_pass _ hdir).trans ((needEnabled_pass _ hen).trans (needStepper_pass _ hst))

/-- `s` after a completed ONESTEP: the new phase and its output (R214). -/
def onestepped (s : State) (st : Stepper) (dir : Direction) (sty : Style) : State :=
  let p := nextPhase s.cfg dir sty (getStepper s.currentstep st)
  let out := phaseOut s.cfg st p sty
  { transferred (stepByte s st dir sty) (withCoilDuties s.duty st out.da out.db) s with
    currentstep := setStepper s.currentstep st p
    result := p }

theorem exec_onestep {st : Stepper} {dir : Direction} (sty : Style) {s : State} (hdir : dir.steps = true)
    (hen : s.enabled = true) (hst : getStepper s.stInit st = true) :
    exec (.onestep st dir sty) s = .next (onestepped s st dir sty) := by
  rw [exec_eq_perform, planOf, planOnestep_pass sty hdir hen hst, perform_transfer, transact_eq]
  rfl

@[simp] theorem onestepped_currentstep (s : State) (st : Stepper) (dir : Direction) (sty : Style) :
    getStepper (onestepped s st dir sty).currentstep st = nextPhase s.cfg dir sty (getStepper s.currentstep st) :=
  getStepper_setStepper_same _ _ _

/-! ### RELEASE (R222) -/

/-- RELEASE of a constructed stepper on an enabled block clears its bits and duties (R222). -/
theorem exec_release {st : Stepper} {s : State} (hen : s.enabled = true) (hst : getStepper s.stInit st = true) :
    exec (.release st) s =
      .next (transferred (mergeBits s.latchState (maskST s.cfg st) 0) (withCoilDuties s.duty st 0 0) s) := by
  rw [exec_eq_perform, planOf, planRelease, needEnabled_pass _ hen, needStepper_pass _ hst, perform_transfer,
    transact_eq]
  rfl

/-! ### A stepper's two duties (R202) -/

theorem chA_ne_chB (st : Stepper) : chA st ≠ chB st := by cases st <;> decide

@[simp] theorem withCoilDuties_chA (d : PerChannel Byte) (st : Stepper) (da db : Byte) :
    getChannel (withCoilDuties d st da db) (chA st) = da := by
  rw [withCoilDuties, getChannel_setChannel_ne _ _ (chA_ne_chB st), getChannel_setChannel_same]

@[simp] theorem withCoilDuties_chB (d : PerChannel Byte) (st : Stepper) (da db : Byte) :
    getChannel (withCoilDuties d st da db) (chB st) = db := getChannel_setChannel_same _ _ _

/-- Writing both duties replaces what was written to them before. -/
@[simp] theorem withCoilDuties_withCoilDuties (d : PerChannel Byte) (st : Stepper) (da db da' db' : Byte) :
    withCoilDuties (withCoilDuties d st da db) st da' db' = withCoilDuties d st da' db' := by cases st <;> rfl

/-- Settles O33: a step of any style leaves the block enabled and the stepper constructed, so RELEASE passes its checks
and clears what `MASK_ST` and the two channels cover. -/
theorem releaseKeepsThePhase : Obligations.ReleaseKeepsThePhase := by
  intro s t st dir sty hdir hen hst ht
  rw [exec_onestep sty hdir hen hst] at ht
  cases ht
  have hclear : mergeBits (onestepped s st dir sty).latchState (maskST s.cfg st) 0 &&& maskST s.cfg st = 0 :=
    mergeBits_inside _ _ 0 BitVec.zero_and
  exact ⟨_, exec_release hen hst, hclear, hclear, withCoilDuties_chA _ st 0 0, withCoilDuties_chB _ st 0 0, rfl⟩

/-! ### Many ONESTEPs (R240) -/

/-- One more time is one more command at the end. -/
theorem execTimes_succ_of_next {i : Instr} {k : Nat} {s t : State} (h : execTimes i k s = .next t) :
    execTimes i (k + 1) s = exec i t := by
  induction k generalizing s with
  | zero => cases h; rw [execTimes, exec_eq_perform]; rfl
  | succ k ih =>
    rw [execTimes, exec_eq_perform] at h ⊢
    exact ih h

/-- `N` steps of one style and direction complete and move the phase `N` strides. -/
theorem execTimes_onestep {st : Stepper} {dir : Direction} (sty : Style) {s : State} (hdir : dir.steps = true)
    (hen : s.enabled = true) (hst : getStepper s.stInit st = true)
    (hp : (getStepper s.currentstep st).toNat < phases s.cfg) (N : Nat) :
    ∃ t, execTimes (.onestep st dir sty) N s = .next t ∧ t.cfg = s.cfg ∧ t.enabled = true ∧
      getStepper t.stInit st = true ∧
      getStepper t.currentstep st = BitVec.ofNat 8 (phaseAfter s.cfg dir sty (getStepper s.currentstep st) N) := by
  induction N with
  | zero =>
    exact ⟨s, rfl, rfl, hen, hst, (ofNat_phaseAfter_zero _ _ _ hp).symm⟩
  | succ N ih =>
    obtain ⟨t, hrun, hcfg, hten, htst, hphase⟩ := ih
    refine ⟨onestepped t st dir sty, ?_, hcfg, hten, htst, ?_⟩
    · rw [execTimes_succ_of_next hrun, exec_onestep sty hdir hten htst]
    · rw [onestepped_currentstep, hphase, hcfg, nextPhase_phaseAfter sty N hdir hp]

/-- Settles O34: `N` steps reach the phase and the style index of `phaseAfter`; a step back is all entries but one
forward. -/
theorem phaseAfterManySteps : Obligations.PhaseAfterManySteps := by
  intro s st sty N hen hst hrange p0 w L
  have hp : p0.toNat < phases s.cfg := hrange st
  have hturn : phases s.cfg = L * w := by rw [Nat.mul_comm]; exact (stride_mul_tableLength s.cfg sty).symm
  have reached (dir : Direction) (hdir : dir.steps = true) :
      ∃ t, execTimes (.onestep st dir sty) N s = .next t ∧
        (getStepper t.currentstep st).toNat = (p0.toNat + N * entriesPerStep s.cfg sty dir * w) % phases s.cfg ∧
        styleIndex s.cfg sty (getStepper t.currentstep st) =
          (styleIndex s.cfg sty p0 + N * entriesPerStep s.cfg sty dir) % L := by
    obtain ⟨t, hrun, -, -, -, hphase⟩ := execTimes_onestep sty hdir hen hst hp N
    refine ⟨t, hrun, ?_, ?_⟩
    · rw [hphase, toNat_ofNat_phase (phaseAfter_lt _ _ _ N hp), phaseAfter_eq_mod _ _ _ N hp]
    · rw [hphase, styleIndex_phaseAfter _ _ _ N hp]
  constructor
  · obtain ⟨t, hrun, hphase, hindex⟩ := reached .forward rfl
    rw [entriesPerStep, Nat.mul_one] at hphase hindex
    exact ⟨t, hrun, hphase, hindex⟩
  · obtain ⟨t, hrun, hphase, hindex⟩ := reached .backward rfl
    have hL : 0 < L := tableLength_pos s.cfg sty
    have hentries := int_mod_entries_back hL (styleIndex s.cfg sty p0) N 1
    refine ⟨t, hrun, ?_, ?_⟩
    · rw [hphase, hturn]
      exact int_mod_entries_back hL p0.toNat N w
    · rw [hindex]
      simpa only [entriesPerStep, Nat.mul_one, Int.mul_one, Nat.cast_one] using hentries

end Sys2Proof.Machine
end

section
/-! SUPPORT. The word of a STEP is read as that STEP: the fields of a word made of fields, and the names their codes stand
for (spec/30_encoding.md R101 to R105, R111). -/

namespace Sys2Proof

/-! ### The fields of a word made of fields (R101) -/

section
variable (op : BitVec 4) (idx dir sty : BitVec 3) (imm : Half)

@[simp] theorem fieldOP_wordOf : fieldOP (wordOf op idx dir sty imm) = op := by
  show (op ++ idx ++ dir ++ sty ++ 0#3 ++ imm).extractLsb' 28 4 = op
  simp only [BitVec.extractLsb'_append_eq_of_le, Nat.reduceLeDiff, Nat.reduceSub, BitVec.extractLsb'_eq_self]

@[simp] theorem fieldIDX_wordOf : fieldIDX (wordOf op idx dir sty imm) = idx := by
  show (op ++ idx ++ dir ++ sty ++ 0#3 ++ imm).extractLsb' 25 3 = idx
  simp only [BitVec.extractLsb'_append_eq_of_le, Nat.reduceLeDiff, Nat.reduceSub, BitVec.extractLsb'_append_eq_right]

@[simp] theorem fieldDIR_wordOf : fieldDIR (wordOf op idx dir sty imm) = dir := by
  show (op ++ idx ++ dir ++ sty ++ 0#3 ++ imm).extractLsb' 22 3 = dir
  simp only [BitVec.extractLsb'_append_eq_of_le, Nat.reduceLeDiff, Nat.reduceSub, BitVec.extractLsb'_append_eq_right]

@[simp] theorem fieldSTY_wordOf : fieldSTY (wordOf op idx dir sty imm) = sty := by
  show (op ++ idx ++ dir ++ sty ++ 0#3 ++ imm).extractLsb' 19 3 = sty
  simp only [BitVec.extractLsb'_append_eq_of_le, Nat.reduceLeDiff, Nat.reduceSub, BitVec.extractLsb'_append_eq_right]

@[simp] theorem fieldIMM16_wordOf : fieldIMM16 (wordOf op idx dir sty imm) = imm :=
  BitVec.extractLsb'_append_eq_right

end

/-! ### The name of a code (R103 to R105) -/

@[simp] theorem Stepper.ofIdx_idx (st : Stepper) : Stepper.ofIdx st.idx = some st := by cases st <;> rfl

@[simp] theorem Style.ofCode_code (sty : Style) : Style.ofCode sty.code = some sty := by cases sty <;> rfl

theorem Direction.ofStepCode_code : ∀ {dir : Direction}, dir.steps = true → Direction.ofStepCode dir.code = some dir
  | .forward, _ => rfl
  | .backward, _ => rfl

/-- A STEP that names a direction a stepper can take survives encoding and decoding (R111). -/
theorem decodeWord_encode_step (st : Stepper) (n : Half) {dir : Direction} (sty : Style) (hdir : dir.steps = true) :
    decodeWord (encode (.step st n dir sty)) = .ok (.step st n dir sty) := by
  have hop : fieldOP (encode (.step st n dir sty)) = Op.step.code := fieldOP_wordOf _ _ _ _ _
  have hmask : encode (.step st n dir sty) &&& Op.step.maskBits = Op.step.matchBits :=
    Laws.FixedBits.step st n dir sty
  rw [Machine.decodeWord_of_opcode hop, if_pos hmask, decodeFields, encode, fieldIDX_wordOf, fieldDIR_wordOf,
    fieldSTY_wordOf, fieldIMM16_wordOf, Stepper.ofIdx_idx, Direction.ofStepCode_code hdir, Style.ofCode_code]
  rfl

end Sys2Proof
end

section
/-! PROOF. A whole STEP: one `stepMove` for each step, the first made by the accepting transaction (spec/42_stepper.md
R221, R230 to R235, R241, R245; spec/70_reset_and_hazards.md R321). -/

namespace Sys2Proof.Machine

/-! ### One step of a running STEP (R221, R232) -/

/-- `s` after the next step of its running STEP and the wait that follows it (R221). -/
def stepped (s : State) : State :=
  let st := s.stepCtx.stepper
  let p := nextPhase s.cfg s.stepCtx.dir s.stepCtx.style (getStepper s.currentstep st)
  let out := phaseOut s.cfg st p s.stepCtx.style
  let d := withCoilDuties s.duty st out.da out.db
  { transferred (runningByte s) d s with
    currentstep := setStepper s.currentstep st p
    result := p
    stepsRemaining := s.stepsRemaining - 1
    usRemaining := 0
    prescale := 0
    busy := decide (s.stepsRemaining - 1 ≠ 0)
    events := ⟨runningByte s, d, s.stepCtx.spacing⟩ :: s.events
    clock := s.clock + 18 + s.stepCtx.spacing.toNat * cycPerUs s.cfg }

/-- A step of a running STEP is a transfer of StepOnce's byte and the whole wait its commit starts, which for a spacing of 0
ends at the commit (R221, R232). -/
theorem stepMove_eq (s : State) : stepMove s = stepped s := by
  have hwait (x : State) : applyAll (runningUpdates s) x = startWait s.stepCtx.spacing
      (applyAll (stepUpdates s s.stepCtx.stepper s.stepCtx.dir s.stepCtx.style) x) := rfl
  rw [stepMove, transact_eq, hwait, startWait]
  by_cases h : s.stepCtx.spacing = 0
  · have hcycles : (0 : Word).toNat * cycPerUs s.cfg = 0 := Nat.zero_mul _
    rw [if_pos h, stepped, h, hcycles]
    rfl
  · rw [if_neg h]
    rfl

/-- At a boundary between two steps of a STEP the machine makes the next one (R321). -/
theorem step_at_boundary {s : State} (henv : s.env = []) (hb : atStepBoundary s = true) :
    step s = .next (stepMove s) := by
  rw [step_without_moves henv, sequencerMove_boundary (accepts_of_busy ((atStepBoundary_iff s).1 hb).1) hb]

theorem stepTimes_succ_of_step {s t : State} (h : step s = .next t) (k : Nat) :
    stepTimes (k + 1) s = stepTimes k t := by
  have hcore : Sys2Proof.core.step s = .next t := h
  simp only [stepTimes, Host.Core.run, hcore]
  rfl

/-! ### The plan of STEP (R221, R235) -/

/-- `s` with an accepted STEP of `n > 0` to run: `usperstep` is read here, once (R221, R337). -/
def stepStarted (s : State) (st : Stepper) (n : Half) (dir : Direction) (sty : Style) : State :=
  { s with
    stepCtx := ⟨st, dir, sty, spacing s.cfg sty (getStepper s.usperstep st)⟩
    stepsRemaining := n
    busy := true }

theorem planStep_pass {st : Stepper} {n : Half} {dir : Direction} (sty : Style) {s : State} (hdir : dir.steps = true)
    (h : StepReady s st) :
    planStep st n dir sty s =
      if n = 0 then .instant [] else .steps ⟨st, dir, sty, spacing s.cfg sty (getStepper s.usperstep st)⟩ n :=
  (needStepDir_pass _ hdir).trans ((needEnabled_pass _ h.enabled).trans
    ((needStepper_pass _ h.initialized).trans (needSpeedSet_pass _ h.speedSet)))

/-- A STEP of no steps writes nothing (R235). -/
theorem exec_step_zero {st : Stepper} {dir : Direction} (sty : Style) {s : State} (hdir : dir.steps = true)
    (h : StepReady s st) : exec (.step st 0 dir sty) s = .next { s with clock := s.clock + 1 } := by
  rw [exec_eq_perform, planOf, planStep_pass sty hdir h, if_pos rfl]
  rfl

/-- A STEP of `n > 0` makes its first step at once (R221). -/
theorem exec_step_pos {st : Stepper} {n : Half} {dir : Direction} (sty : Style) {s : State} (hdir : dir.steps = true)
    (h : StepReady s st) (hn : n ≠ 0) :
    exec (.step st n dir sty) s = .next (stepMove (stepStarted s st n dir sty)) := by
  rw [exec_eq_perform, planOf, planStep_pass sty hdir h, if_neg hn]
  rfl

/-- Settles O31: every check passes, and the plan of no steps has no update. -/
theorem stepOfZeroWritesNothing : Obligations.StepOfZeroWritesNothing :=
  fun _ _ _ sty hdir h => exec_step_zero sty hdir h

/-! ### The state after some steps of a STEP -/

/-- Bytes that agree outside the mask are the same byte after a read-modify-write under it (R80). -/
theorem mergeBits_congr {a b mask : Byte} (set : Byte) (h : a &&& ~~~mask = b &&& ~~~mask) :
    mergeBits a mask set = mergeBits b mask set := congrArg (· ||| set) h

/-- `t` is the state `k` steps into a STEP of `n` steps accepted in `s`. -/
structure AfterSteps (s : State) (st : Stepper) (n : Half) (dir : Direction) (sty : Style) (k : Nat) (t : State) :
    Prop where
  cfg : t.cfg = s.cfg
  fault : t.fault = s.fault
  env : t.env = s.env
  cmdValid : t.cmdValid = s.cmdValid
  checks : StepReady t st
  ctx : t.stepCtx = ⟨st, dir, sty, spacing s.cfg sty (getStepper s.usperstep st)⟩
  idle : t.seqState = .idle
  busy : t.busy = decide (t.stepsRemaining ≠ 0)
  remaining : t.stepsRemaining.toNat + k = n.toNat
  phase : getStepper t.currentstep st = BitVec.ofNat 8 (phaseAfter s.cfg dir sty (getStepper s.currentstep st) k)
  otherBits : t.latchState &&& ~~~maskST s.cfg st = s.latchState &&& ~~~maskST s.cfg st
  otherDuties : ∀ da db, withCoilDuties t.duty st da db = withCoilDuties s.duty st da db
  trace : trace t = trace s ++ (List.range k).map (stepEvent s st dir sty)

section
variable {s : State} {st : Stepper} {n : Half} {dir : Direction} {sty : Style}

theorem afterSteps_zero (hidle : s.seqState = .idle) (hready : StepReady s st) (hn : n ≠ 0)
    (hp : (getStepper s.currentstep st).toNat < phases s.cfg) :
    AfterSteps s st n dir sty 0 (stepStarted s st n dir sty) where
  cfg := rfl
  fault := rfl
  env := rfl
  cmdValid := rfl
  checks := ⟨hready.enabled, hready.initialized, hready.speedSet⟩
  ctx := rfl
  idle := hidle
  busy := (decide_eq_true hn).symm
  remaining := rfl
  phase := (ofNat_phaseAfter_zero _ _ _ hp).symm
  otherBits := rfl
  otherDuties := fun _ _ => rfl
  trace := (List.append_nil _).symm

theorem AfterSteps.atStepBoundary {k : Nat} {t : State} (h : AfterSteps s st n dir sty k t) (hk : k < n.toNat) :
    atStepBoundary t = true := by
  have hne : t.stepsRemaining ≠ 0 := fun h0 => by
    have hrem := h.remaining
    rw [h0] at hrem
    exact hk.ne ((Nat.zero_add k).symm.trans hrem)
  exact (atStepBoundary_iff t).2 ⟨h.busy.trans (decide_eq_true hne), h.idle, hne⟩

/-- The next step's phase is one stride on. -/
theorem AfterSteps.next_phase {k : Nat} {t : State} (hdir : dir.steps = true)
    (hp : (getStepper s.currentstep st).toNat < phases s.cfg) (h : AfterSteps s st n dir sty k t) :
    nextPhase t.cfg dir sty (getStepper t.currentstep st) =
      BitVec.ofNat 8 (phaseAfter s.cfg dir sty (getStepper s.currentstep st) (k + 1)) := by
  rw [h.cfg, h.phase, nextPhase_phaseAfter sty k hdir hp]

/-- The next step sends the byte of event `k`: the bits it replaces are the stepper's own (R214). -/
theorem AfterSteps.next_byte {k : Nat} {t : State} (hdir : dir.steps = true)
    (hp : (getStepper s.currentstep st).toNat < phases s.cfg) (h : AfterSteps s st n dir sty k t) :
    runningByte t = (stepEvent s st dir sty k).latch := by
  rw [runningByte, h.ctx, stepByte, h.next_phase hdir hp, h.cfg, mergeBits_congr _ h.otherBits]
  rfl

/-- The next step commits the duties of event `k`: those it replaces are the stepper's own (R214). -/
theorem AfterSteps.next_duty {k : Nat} {t : State} (hdir : dir.steps = true)
    (hp : (getStepper s.currentstep st).toNat < phases s.cfg) (h : AfterSteps s st n dir sty k t) :
    (stepped t).duty = (stepEvent s st dir sty k).duty := by
  rw [stepped, h.ctx, h.next_phase hdir hp, h.cfg]
  exact h.otherDuties _ _

/-- A further step leads from `k` steps into the STEP to `k + 1`. -/
theorem AfterSteps.succ {k : Nat} {t : State} (hdir : dir.steps = true)
    (hp : (getStepper s.currentstep st).toNat < phases s.cfg) (h : AfterSteps s st n dir sty k t) (hk : k < n.toNat) :
    AfterSteps s st n dir sty (k + 1) (stepMove t) := by
  have hrem := h.remaining
  have hbyte := h.next_byte hdir hp
  have hduty := h.next_duty hdir hp
  rw [stepMove_eq]
  exact {
    cfg := h.cfg
    fault := h.fault
    env := h.env
    cmdValid := h.cmdValid
    checks := ⟨h.checks.enabled, h.checks.initialized, h.checks.speedSet⟩
    ctx := h.ctx
    idle := rfl
    busy := rfl
    remaining := by
      show (t.stepsRemaining - 1).toNat + (k + 1) = n.toNat
      bv_omega
    phase := by
      rw [stepped, h.ctx, h.next_phase hdir hp]
      exact getStepper_setStepper_same _ _ _
    otherBits := by
      show runningByte t &&& _ = _
      rw [hbyte]
      exact mergeBits_outside _ _ _ (phaseOut_set_outside _ _ _ _)
    otherDuties := fun da db => by
      rw [hduty]
      exact withCoilDuties_withCoilDuties _ _ _ _ _ _
    trace := by
      have hevent : (⟨runningByte t, (stepped t).duty, t.stepCtx.spacing⟩ : OutputEvent) = stepEvent s st dir sty k := by
        rw [hbyte, hduty, h.ctx]
        rfl
      have htrace : Machine.trace (stepped t) = Machine.trace t ++ [stepEvent s st dir sty k] :=
        hevent ▸ List.reverse_cons
      rw [htrace, h.trace, List.range_succ, List.map_append, List.append_assoc]
      rfl }

/-- The rest of a STEP: one step of the machine for each step left to make (R321). -/
theorem AfterSteps.rest {k : Nat} {t : State} (hdir : dir.steps = true) (henv : s.env = [])
    (hp : (getStepper s.currentstep st).toNat < phases s.cfg) (h : AfterSteps s st n dir sty k t) {j : Nat}
    (hj : k + j = n.toNat) : ∃ u, stepTimes j t = .next u ∧ AfterSteps s st n dir sty n.toNat u := by
  induction j generalizing k t with
  | zero => exact ⟨t, rfl, hj ▸ h⟩
  | succ j ih =>
    have hk : k < n.toNat := by omega
    have hstep := step_at_boundary (h.env.trans henv) (h.atStepBoundary hk)
    obtain ⟨u, hrun, hu⟩ := ih (h.succ hdir hp hk) (by omega)
    exact ⟨u, (stepTimes_succ_of_step hstep j).trans hrun, hu⟩

/-- A STEP of `n > 0` accepted in `s` runs to its end in `n` steps of the machine. -/
theorem stepTimes_of_accepted {r : State} (hdir : dir.steps = true) (hn : n ≠ 0) (hidle : s.seqState = .idle)
    (henv : s.env = []) (hready : StepReady s st) (hp : (getStepper s.currentstep st).toNat < phases s.cfg)
    (hr : step r = exec (.step st n dir sty) s) :
    ∃ u, stepTimes n.toNat r = .next u ∧ AfterSteps s st n dir sty n.toNat u := by
  have hpos : 0 < n.toNat := by bv_omega
  have hfirst := (afterSteps_zero (dir := dir) (sty := sty) hidle hready hn hp).succ hdir hp hpos
  obtain ⟨u, hrun, hu⟩ := hfirst.rest hdir henv hp (j := n.toNat - 1) (by omega)
  have hstep := stepTimes_succ_of_step (hr.trans (exec_step_pos sty hdir hready hn)) (n.toNat - 1)
  rw [Nat.sub_add_cancel hpos] at hstep
  exact ⟨u, hstep.trans hrun, hu⟩

/-- At the end of a STEP the port is ready. -/
theorem AfterSteps.cmdReady {t : State} (h : AfterSteps s st n dir sty n.toNat t) (hfault : s.fault = false) :
    cmdReady t = true := by
  have hrem : t.stepsRemaining = 0 := BitVec.eq_of_toNat_eq (Nat.add_eq_right.1 h.remaining)
  exact (cmdReady_iff t).2 ⟨h.busy.trans (decide_eq_false (not_not_intro hrem)), h.fault.trans hfault, h.idle⟩

end

/-! ### Presenting a command on a ready port (R38) -/

/-- `s` with a command just taken from its port, no other agent moving. -/
def accepted (i : Instr) (s : State) : State := { s with env := [], cmdValid := false, cmdWord := encode i }

/-- A ready port accepts a presented command at once (R38). -/
theorem step_presentWord {s : State} {i : Instr} (hready : cmdReady s = true)
    (hdec : decodeWord (encode i) = .ok i) :
    step (presentWord (encode i) s) = exec i (accepted i s) := by
  have hacc : accepts (presentWord (encode i) s) = true := (accepts_iff _).2 ⟨rfl, hready⟩
  have hword : (presentWord (encode i) s).cmdWord = encode i := rfl
  rw [step_without_moves rfl, sequencerMove_accept hacc, acceptCommand, hword, hdec]
  rfl

theorem StepReady.accepted {s : State} {st : Stepper} (i : Instr) (h : StepReady s st) : StepReady (accepted i s) st :=
  ⟨h.enabled, h.initialized, h.speedSet⟩

section
variable {s : State} {st : Stepper} {n : Half} {dir : Direction} (sty : Style) (hdir : dir.steps = true)
  (hready : cmdReady s = true) (hchecks : StepReady s st)
include hdir hready hchecks

theorem stepTimes_presented_step_zero :
    stepTimes 1 (presentWord (encode (.step st 0 dir sty)) s) =
      .next { accepted (.step st 0 dir sty) s with clock := s.clock + 1 } :=
  stepTimes_succ_of_step ((step_presentWord hready (decodeWord_encode_step st 0 sty hdir)).trans
    (exec_step_zero sty hdir (hchecks.accepted _))) 0

theorem stepTimes_presented_step_pos (hn : n ≠ 0) (hp : (getStepper s.currentstep st).toNat < phases s.cfg) :
    ∃ t, stepTimes n.toNat (presentWord (encode (.step st n dir sty)) s) = .next t ∧
      AfterSteps (accepted (.step st n dir sty) s) st n dir sty n.toNat t :=
  have ⟨_, _, hidle⟩ := (cmdReady_iff s).1 hready
  stepTimes_of_accepted (s := accepted _ s) hdir hn hidle rfl (hchecks.accepted _) hp
    (step_presentWord hready (decodeWord_encode_step st n sty hdir))

/-- A STEP presented on a ready port of a stepper ready for it runs to its end, which leaves the stepper ready for the next
one; a STEP of no steps takes the one step of the machine that accepts it (R221, R235). -/
theorem stepTimes_presented_step (hp : (getStepper s.currentstep st).toNat < phases s.cfg) :
    ∃ t, stepTimes (max 1 n.toNat) (presentWord (encode (.step st n dir sty)) s) = .next t ∧ t.cfg = s.cfg ∧
      cmdReady t = true ∧ StepReady t st ∧
      getStepper t.currentstep st = BitVec.ofNat 8 (phaseAfter s.cfg dir sty (getStepper s.currentstep st) n.toNat) := by
  by_cases hn : n = 0
  · subst hn
    exact ⟨_, stepTimes_presented_step_zero sty hdir hready hchecks, rfl, hready,
      ⟨hchecks.enabled, hchecks.initialized, hchecks.speedSet⟩, (ofNat_phaseAfter_zero _ _ _ hp).symm⟩
  · have hpos : 1 ≤ n.toNat := by bv_omega
    obtain ⟨t, hrun, ht⟩ := stepTimes_presented_step_pos sty hdir hready hchecks hn hp
    obtain ⟨-, hfault, -⟩ := (cmdReady_iff s).1 hready
    rw [Nat.max_eq_right hpos]
    exact ⟨t, hrun, ht.cfg, ht.cmdReady hfault, ht.checks, ht.phase⟩

end

/-- Settles O37: the STEP back starts where the STEP forward ended and makes as many strides. -/
theorem stepRoundTrip : Obligations.StepRoundTrip := by
  intro s st n sty hready hchecks hrange
  obtain ⟨t, hrun, hcfg, hready', hchecks', hphase⟩ :=
    stepTimes_presented_step (n := n) (dir := .forward) sty rfl hready hchecks (hrange st)
  have hp : (getStepper t.currentstep st).toNat < phases t.cfg := by
    rw [hphase, hcfg, toNat_ofNat_phase (phaseAfter_lt _ _ _ _ (hrange st))]
    exact phaseAfter_lt _ _ _ _ (hrange st)
  obtain ⟨u, hrun', -, -, -, hphase'⟩ :=
    stepTimes_presented_step (n := n) (dir := .backward) sty rfl hready' hchecks' hp
  refine ⟨t, u, hrun, hrun', ?_⟩
  rw [hphase', hphase, hcfg, phaseAfter_backward_forward _ _ _ (hrange st), BitVec.ofNat_toNat, BitVec.setWidth_eq]

/-! ### Two hundred single steps (R245) -/

/-- STEPPER_SPEED 60 with 200 steps per revolution gives 5000 microseconds per step (R219). -/
theorem usPerStep_200_60 : usPerStep 200 60 = 5000 := by decide

/-- What a division that sets a stepper's speed leaves (R219). -/
theorem perform_divide_speed (st : Stepper) (us : Word) (s : State) :
    perform (.divide [.usperstep st us, .speedSet st true]) s =
      { s with
        usperstep := setStepper s.usperstep st us
        speedSet := setStepper s.speedSet st true
        busy := false
        seqState := .idle
        divCount := 0
        pending := []
        clock := s.clock + max 1 s.cfg.lDiv } := by
  rfl

/-- `t` is `s` after a STEPPER_SPEED 60 with 200 steps per revolution (R219). -/
structure AfterSpeed60 (s : State) (st : Stepper) (t : State) : Prop where
  cfg : t.cfg = s.cfg
  latchState : t.latchState = s.latchState
  duty : t.duty = s.duty
  currentstep : t.currentstep = s.currentstep
  usperstep : getStepper t.usperstep st = 5000
  ready : cmdReady t = true
  checks : StepReady t st

theorem stepTimes_presented_speed60 {s : State} {st : Stepper} (hready : cmdReady s = true) (hen : s.enabled = true)
    (hst : getStepper s.stInit st = true) (hrev : getStepper s.revsteps st = 200) :
    ∃ t, stepTimes 1 (presentWord (encode (.stepperSpeed st 60)) s) = .next t ∧ AfterSpeed60 s st t := by
  have hdec : decodeWord (encode (.stepperSpeed st 60)) = .ok (.stepperSpeed st 60) := by cases st <;> rfl
  have hplan : planStepperSpeed st 60 (accepted (.stepperSpeed st 60) s) =
      .divide [.usperstep st 5000, .speedSet st true] := by
    have hst' : getStepper (accepted (.stepperSpeed st 60) s).stInit st = true := hst
    have hrev' : getStepper (accepted (.stepperSpeed st 60) s).revsteps st = 200 := hrev
    rw [planStepperSpeed, needStepper_pass _ hst', hrev', usPerStep_200_60]
    rfl
  have hstep := step_presentWord hready hdec
  rw [exec_eq_perform, planOf, hplan, perform_divide_speed] at hstep
  obtain ⟨-, hfault, -⟩ := (cmdReady_iff s).1 hready
  exact ⟨_, stepTimes_succ_of_step hstep 0, {
    cfg := rfl
    latchState := rfl
    duty := rfl
    currentstep := rfl
    usperstep := getStepper_setStepper_same _ _ _
    ready := (cmdReady_iff _).2 ⟨rfl, hfault, rfl⟩
    checks := ⟨hen, hst, getStepper_setStepper_same _ _ _⟩ }⟩

/-- A forward SINGLE step shows the next entry of its table (R213, R240). -/
theorem stepEvent_single {s : State} {st : Stepper} (k : Nat)
    (hp : (getStepper s.currentstep st).toNat < phases s.cfg) :
    stepEvent s st .forward .single k =
      ⟨mergeBits s.latchState (maskST s.cfg st) (coilBits s.cfg st
          (single4.getD ((styleIndex s.cfg .single (getStepper s.currentstep st) + k + 1) % 4) [])),
        withCoilDuties s.duty st 255 255, getStepper s.usperstep st⟩ := by
  have hindex := styleIndex_phaseAfter s.cfg .forward .single (k + 1) hp
  rw [entriesPerStep, Nat.mul_one, tableLength, ← Nat.add_assoc] at hindex
  rw [stepEvent, phaseOut, hindex]
  rfl

/-- Settles O38: the speed of 5000 us, then the 200 steps of the STEP, whose index comes round after every fourth. -/
theorem twoHundredSingleSteps : Obligations.TwoHundredSingleSteps := by
  intro s st hinv hready hen hst hrev
  obtain ⟨t, hspeed, ht⟩ := stepTimes_presented_speed60 hready hen hst hrev
  have hp : (getStepper t.currentstep st).toNat < phases t.cfg := by
    rw [ht.currentstep, ht.cfg]
    exact hinv.good.phase st
  obtain ⟨u, hrun, hu⟩ := stepTimes_presented_step_pos (n := 200) (dir := .forward) .single rfl ht.ready ht.checks
    (by decide) hp
  have h200 : (200 : Half).toNat = 200 := rfl
  rw [h200] at hrun hu
  have htrace : trace u = trace t ++ (List.range 200).map _ := hu.trace
  have hevent (k : Nat) := stepEvent_single (s := accepted (.step st 200 .forward .single) t) k hp
  have hphase : getStepper u.currentstep st =
      BitVec.ofNat 8 (phaseAfter t.cfg .forward .single (getStepper t.currentstep st) 200) := hu.phase
  have hindex : styleIndex t.cfg .single (getStepper t.currentstep st) < 4 := styleIndex_lt t.cfg .single hp
  rw [← ht.cfg, ← ht.latchState, ← ht.duty, ← ht.currentstep]
  refine ⟨t, u, hspeed, ht.usperstep, hrun, ?_, ?_, ?_⟩
  · simpa [trace] using congrArg List.length htrace
  · rw [htrace, List.drop_left, ← ht.usperstep]
    exact List.map_congr_left fun k _ => hevent k
  · rw [hphase, styleIndex_phaseAfter _ _ _ _ hp, entriesPerStep, tableLength]
    omega

end Sys2Proof.Machine
end

section
/-! PROOF. The command word both ways: what the encoder writes the decoder reads back, and every accepted word is what the
encoder writes for the command read (spec/30_encoding.md R101 to R111). -/

namespace Sys2Proof

/-! ### The names of the codes (R102 to R104) -/

@[simp] theorem Motor.ofIdx_idx (n : Motor) : Motor.ofIdx n.idx = some n := by cases n <;> rfl

@[simp] theorem Channel.ofIdx_idx (ch : Channel) : Channel.ofIdx ch.idx = some ch := by cases ch <;> rfl

@[simp] theorem Direction.ofCode_code (dir : Direction) : Direction.ofCode dir.code = some dir := by cases dir <;> rfl

@[simp] theorem fieldIMM8_wordOf_imm8 (op : BitVec 4) (idx dir sty : BitVec 3) (v : Byte) :
    fieldIMM8 (wordOf op idx dir sty (imm8 v)) = v := by
  have hlow : (imm8 v).extractLsb' 0 8 = v := by
    rw [imm8, BitVec.extractLsb'_setWidth_of_le (by decide), BitVec.extractLsb'_eq_self]
  show (op ++ idx ++ dir ++ sty ++ 0#3 ++ imm8 v).extractLsb' 0 8 = v
  rw [BitVec.extractLsb'_append_eq_of_add_le (by decide), hlow]

/-! ### The word of a command -/

/-- The bits its row fixes are in the word of every command (R106, R110). -/
theorem encode_and_maskBits (i : Instr) : encode i &&& i.op.maskBits = i.op.matchBits := by
  cases i
  case enable => exact Laws.FixedBits.enable
  case writeLatch => exact Laws.FixedBits.writeLatch _
  case setDuty => exact Laws.FixedBits.setDuty _ _
  case dcInit => exact Laws.FixedBits.dcInit _
  case dcRun => exact Laws.FixedBits.dcRun _ _
  case dcSpeed => exact Laws.FixedBits.dcSpeed _ _
  case stepperInit => exact Laws.FixedBits.stepperInit _ _
  case stepperSpeed => exact Laws.FixedBits.stepperSpeed _ _
  case onestep => exact Laws.FixedBits.onestep _ _ _
  case step => exact Laws.FixedBits.step _ _ _ _
  case release => exact Laws.FixedBits.release _

/-- The word of a command carries its row's opcode (R108). -/
theorem fieldOP_encode (i : Instr) : fieldOP (encode i) = i.op.code := by
  cases i <;> exact fieldOP_wordOf _ _ _ _ _

/-- The field checks read a well-formed command back from its word (R111). -/
theorem decodeFields_encode {i : Instr} (hwf : i.wf = true) : decodeFields i.op (encode i) = .ok i := by
  cases i
  case enable => rfl
  case onestep st dir sty =>
    rw [Instr.op, decodeFields, encode, fieldIDX_wordOf, fieldDIR_wordOf, fieldSTY_wordOf, Stepper.ofIdx_idx,
      Direction.ofStepCode_code hwf, Style.ofCode_code]
    rfl
  case step st n dir sty =>
    rw [Instr.op, decodeFields, encode, fieldIDX_wordOf, fieldDIR_wordOf, fieldSTY_wordOf, fieldIMM16_wordOf,
      Stepper.ofIdx_idx, Direction.ofStepCode_code hwf, Style.ofCode_code]
    rfl
  all_goals simp [Instr.op, decodeFields, encode, orReject, Except.map, Except.bind]

/-- Settles O1: the opcode and the fixed bits lead the decoder to the command's row, whose fields name the operands. -/
theorem decodeOfEncodeIsTheCommand : Obligations.DecodeOfEncodeIsTheCommand := by
  intro i hwf
  rw [Machine.decodeWord_of_opcode (fieldOP_encode i), if_pos (encode_and_maskBits i), decodeFields_encode hwf]

/-! ### An accepted word (R106, R111) -/

/-- An opcode outside the illegal range is a row's (R108, R109). -/
theorem exists_op_of_legal_opcode :
    ∀ c : BitVec 4, ¬(c.toNat = 0 ∨ 12 ≤ c.toNat) → ∃ op : Op, c = op.code := by
  intro c h
  have named : ∀ c : BitVec 4, ¬(c.toNat = 0 ∨ 12 ≤ c.toNat) → (Op.ofCode c).map Op.code = some c := by decide
  obtain ⟨op, -, hop⟩ := Option.map_eq_some_iff.mp (named c h)
  exact ⟨op, hop.symm⟩

/-- The codes of `DIR` legal for a stepper name the two directions it takes (R104). -/
theorem Direction.steps_of_legal_code (dir : Direction) :
    decide (1 ≤ dir.code.toNat ∧ dir.code.toNat ≤ 2) = true → dir.steps = true := by
  cases dir <;> decide

/-- A command whose `DIR` field is legal for its row is well-formed (R104). -/
theorem wf_of_dirLegal {i : Instr} (h : Machine.dirLegal i.op (fieldDIR (encode i)) = true) : i.wf = true := by
  cases i
  case onestep st dir sty =>
    rw [encode.eq_def, fieldDIR_wordOf] at h
    exact dir.steps_of_legal_code h
  case step st n dir sty =>
    rw [encode.eq_def, fieldDIR_wordOf] at h
    exact dir.steps_of_legal_code h
  all_goals rfl

/-- Settles O2: a word that passes every check of R111 is a command's encoding, and no other word is accepted. -/
theorem encodeOfDecodeIsTheWord : Obligations.EncodeOfDecodeIsTheWord := by
  intro w i hdec
  by_cases hillegal : (fieldOP w).toNat = 0 ∨ 12 ≤ (fieldOP w).toNat
  · cases (Machine.decodeWord_of_illegal_opcode hillegal).symm.trans hdec
  obtain ⟨op, hop⟩ := exists_op_of_legal_opcode _ hillegal
  rw [Machine.decodeWord_of_opcode hop] at hdec
  split at hdec
  next hmask =>
    cases hidx : Machine.idxLegal op (fieldIDX w)
    · cases (Machine.decodeFields_of_illegal_idx hidx).symm.trans hdec
    cases hdir : Machine.dirLegal op (fieldDIR w)
    · cases (Machine.decodeFields_of_illegal_dir hidx hdir).symm.trans hdec
    cases hsty : Machine.styLegal op (fieldSTY w)
    · cases (Machine.decodeFields_of_illegal_sty hidx hdir hsty).symm.trans hdec
    obtain ⟨j, hj, hjop, hjw⟩ := Machine.decodeFields_of_legal hop hmask hidx hdir hsty
    cases hj.symm.trans hdec
    rw [← hjop, ← hjw] at hdir
    exact ⟨hjw, wf_of_dirLegal hdir⟩
  next => cases hdec

end Sys2Proof
end

section
/-! SUPPORT. What one step of the machine can do, said once (spec/10_state.md R38; spec/60_exceptions.md R273, R285): every
step has a next state, and that state is one of eight. -/

namespace Sys2Proof.Machine

/-- `s` with the presented word taken off the port. -/
def taken (s : State) : State := { s with cmdValid := false }

/-- Accepting is carrying out the plan of the word, decoded or not (R262). -/
theorem acceptCommand_eq (s : State) :
    acceptCommand s = .next (perform (planWord s.cmdWord (taken s)) (taken s)) := by
  unfold acceptCommand planWord
  cases decodeWord s.cmdWord with
  | ok i => exact exec_eq_perform i _
  | error why => rfl

/-- The states one step of the machine can lead to. -/
inductive Moves (s : State) : State → Prop
  | accept (h : accepts s = true) : Moves s (perform (planWord s.cmdWord (taken s)) (taken s))
  | further (h : accepts s = false) (hb : atStepBoundary s = true) : Moves s (stepMove s)
  | edge (h : accepts s = false) (hb : atStepBoundary s = false) : Moves s (clockEdge s)
  | reset (rest : List EnvMove) (h : s.env = .reset :: rest) : Moves s (resetEdge { s with env := rest })
  | clock (rest : List EnvMove) (h : s.env = .clock :: rest) : Moves s (clockEdge { s with env := rest })
  | tick (g : Group) (rest : List EnvMove) (h : s.env = .tick g :: rest) :
      Moves s (pwmTick g { s with env := rest })
  | readAddr (a : Byte) (rest : List EnvMove) (h : s.env = .readAddr a :: rest) :
      Moves s { s with env := rest, rdAddr := a }
  | present (w : Word) (rest : List EnvMove) (h : s.env = .present w :: rest) :
      Moves s { s with env := rest, cmdValid := true, cmdWord := w }

theorem exists_sequencerMove (s : State) : ∃ t, sequencerMove s = .next t ∧ Moves s t := by
  cases h : accepts s with
  | true => exact ⟨_, (sequencerMove_accept h).trans (acceptCommand_eq s), .accept h⟩
  | false =>
    cases hb : atStepBoundary s with
    | true => exact ⟨_, sequencerMove_boundary h hb, .further h hb⟩
    | false => exact ⟨_, sequencerMove_clock h hb, .edge h hb⟩

theorem step_readAddr {s : State} {a : Byte} {rest : List EnvMove} (h : s.env = .readAddr a :: rest) :
    step s = .next { s with env := rest, rdAddr := a } := by simp [step, moveOnce, h]

theorem step_present {s : State} {w : Word} {rest : List EnvMove} (h : s.env = .present w :: rest) :
    step s = if s.cmdValid then sequencerMove s
      else .next { s with env := rest, cmdValid := true, cmdWord := w } := by simp [step, moveOnce, h]

theorem exists_step (s : State) : ∃ t, step s = .next t ∧ Moves s t := by
  match h : s.env with
  | [] => rw [step_without_moves h]; exact exists_sequencerMove s
  | .reset :: _ => exact ⟨_, step_reset h, .reset _ h⟩
  | .clock :: _ => exact ⟨_, step_clock h, .clock _ h⟩
  | .tick _ :: _ => exact ⟨_, step_tick h, .tick _ _ h⟩
  | .readAddr _ :: _ => exact ⟨_, step_readAddr h, .readAddr _ _ h⟩
  | .present _ :: _ =>
    rw [step_present h]
    split
    · exact exists_sequencerMove s
    · exact ⟨_, rfl, .present _ _ h⟩

/-- A state a step leads to is one of those of `Moves`. -/
theorem moves_of_step {s t : State} (h : step s = .next t) : Moves s t := by
  obtain ⟨u, hu, hmoves⟩ := exists_step s
  cases hu.symm.trans h
  exact hmoves

/-- Settles O13: a step has one of the next states of `Moves`, and a command is its plan, carried out. -/
theorem everyStepHasANextState : Obligations.EveryStepHasANextState :=
  ⟨fun s => (exists_step s).imp fun _ h => h.1, fun i s => ⟨_, exec_eq_perform i s⟩⟩

/-! ### A presented command (R38, R84) -/

/-- The host's next word waits behind the one on the port, so the sequencer moves (R38). -/
theorem Presented.step_eq {s : State} (h : Presented s) :
    step s = .next (perform (planWord s.cmdWord (taken s)) (taken s)) := by
  have hacc : accepts s = true := (accepts_iff s).2 ⟨h.valid, h.ready⟩
  have hmove : step s = sequencerMove s := by
    obtain hnil | ⟨w, rest, hcons⟩ := h.first
    · exact step_without_moves hnil
    · rw [step_present hcons, if_pos h.valid]
  rw [hmove, sequencerMove_accept hacc, acceptCommand_eq]

/-- Settles O5: the plan of a word that decodes is that of its command. -/
theorem stepRunsTheDecodedCommand : Obligations.StepRunsTheDecodedCommand := by
  intro s i hpres hdec
  rw [hpres.step_eq, planWord, hdec, exec_eq_perform]
  rfl

/-- Settles O6: the plan of a word that does not decode raises the fault of the failed check. -/
theorem undecodableWordRaisesItsFault : Obligations.UndecodableWordRaisesItsFault := by
  intro s why hpres hdec
  rw [hpres.step_eq, planWord, hdec]
  exact congrArg _ (perform_raise _ _)

/-- On a closed port a step of the sequencer neither reads nor writes the port (R38, R286). -/
theorem step_closed_port {s : State} (hclosed : cmdReady s = false) (henv : s.env = []) :
    ∃ t : State, ∀ b w,
      step { s with cmdValid := b, cmdWord := w } = .next { t with cmdValid := b, cmdWord := w } := by
  have henv' (b : Bool) (w : Word) : ({ s with cmdValid := b, cmdWord := w } : State).env = [] := henv
  have hacc (b : Bool) (w : Word) : accepts { s with cmdValid := b, cmdWord := w } = false :=
    (congrArg (b && ·) hclosed).trans (Bool.and_false b)
  cases hb : atStepBoundary s with
  | true =>
    refine ⟨stepMove s, fun b w => ?_⟩
    rw [step_without_moves (henv' b w), sequencerMove_boundary (hacc b w) hb, stepMove_port]
  | false =>
    refine ⟨{ sequencerEdge s with clock := s.clock + 1 }, fun b w => ?_⟩
    rw [step_without_moves (henv' b w), sequencerMove_clock (hacc b w) hb, clockEdge_of_not_accepts (hacc b w),
      sequencerEdge_port]

/-- Settles O7: neither the next step of a STEP nor an edge of the sequencer looks at the port. -/
theorem closedPortHoldsTheCommand : Obligations.ClosedPortHoldsTheCommand := by
  intro s w hclosed henv
  obtain ⟨t, ht⟩ := step_closed_port hclosed henv
  exact ⟨_, ht false s.cmdWord, ht true w⟩

end Sys2Proof.Machine
end

section
/-! SUPPORT. A command's plan is its row of the check table before the plan it has when every check passes
(spec/60_exceptions.md R265 to R272). -/

namespace Sys2Proof.Machine

/-! ### The plan behind the checks -/

/-- The plan of a well-formed command all of whose checks pass (R15). -/
def passedPlan (i : Instr) (s : State) : Plan :=
  match i with
  | .enable => .enable
  | .writeLatch v => .transfer v [.latchState v, .busyClear]
  | .setDuty ch v => .instant [.duty ch v]
  | .dcInit n =>
    let new := mergeBits s.latchState (maskDC s.cfg n) 0
    .transfer new [.latchState new, .duty (motorChannel n) 0, .dcInit n, .busyClear]
  | .dcRun n dir =>
    let new := mergeBits s.latchState (maskDC s.cfg n) (dcBits s.cfg n dir)
    .transfer new ([.latchState new] ++ dcDutyUpdates n dir ++ [.busyClear])
  | .dcSpeed n v => .instant [.duty (motorChannel n) v]
  | .stepperInit st rs =>
    let new := mergeBits s.latchState (maskST s.cfg st) 0
    .transfer new [.latchState new, .duty (chA st) 0, .duty (chB st) 0, .stInit st, .revsteps st rs,
      .usperstep st 0, .speedSet st false, .currentstep st 0, .busyClear]
  | .stepperSpeed st rpm => .divide [.usperstep st (usPerStep (getStepper s.revsteps st) rpm), .speedSet st true]
  | .onestep st dir sty => .transfer (stepByte s st dir sty) (stepUpdates s st dir sty ++ [.busyClear])
  | .step st n dir sty =>
    if n = 0 then .instant [] else .steps ⟨st, dir, sty, spacing s.cfg sty (getStepper s.usperstep st)⟩ n
  | .release st =>
    let new := mergeBits s.latchState (maskST s.cfg st) 0
    .transfer new [.latchState new, .duty (chA st) 0, .duty (chB st) 0, .busyClear]

/-- A plan behind a list of checks of a command, the first of them outermost (R272). -/
def guarded (i : Instr) (s : State) (ks : List Check) (p : Plan) : Plan :=
  ks.foldr (fun k q => if checkFails k i ((slotOf i).getD (.motor .m1)) s then .raise (checkCode k) else q) p

theorem guarded_of_find?_eq_some {i : Instr} {s : State} {ks : List Check} {k : Check} (p : Plan)
    (h : (ks.find? fun k => checkFails k i ((slotOf i).getD (.motor .m1)) s) = some k) :
    guarded i s ks p = .raise (checkCode k) := by
  induction ks with
  | nil => cases h
  | cons j ks ih =>
    rw [List.find?_cons] at h
    rw [guarded, List.foldr_cons]
    split at h
    next hj => cases h; rw [if_pos hj]
    next hj => rw [hj, if_neg Bool.false_ne_true]; exact ih h

theorem guarded_of_find?_eq_none {i : Instr} {s : State} {ks : List Check} (p : Plan)
    (h : (ks.find? fun k => checkFails k i ((slotOf i).getD (.motor .m1)) s) = none) : guarded i s ks p = p := by
  rw [List.find?_eq_none] at h
  induction ks with
  | nil => rfl
  | cons j ks ih =>
    rw [guarded, List.foldr_cons, if_neg (h j List.mem_cons_self)]
    exact ih fun k hk => h k (List.mem_cons_of_mem _ hk)

/-! ### Each check in the words of the table (R265 to R269) -/

section
variable (i : Instr) (s : State) (p : Plan)

@[simp] theorem checkFails_enabled (o : Owner) : checkFails .enabled i o s = !s.enabled := rfl

@[simp] theorem checkFails_initialized_motor (n : Motor) :
    checkFails .initialized i (.motor n) s = !getMotor s.dcInit n := rfl

@[simp] theorem checkFails_initialized_stepper (st : Stepper) :
    checkFails .initialized i (.stepper st) s = !getStepper s.stInit st := rfl

@[simp] theorem checkFails_speedSet (st : Stepper) :
    checkFails .speedSet i (.stepper st) s = !getStepper s.speedSet st := rfl

/-- A DC slot is free when none of its rivals is constructed (R267). -/
@[simp] theorem checkFails_conflict_motor (n : Motor) : checkFails .conflict i (.motor n) s = !motorFree s n := by
  cases n <;> simp [checkFails, motorFree, rivals, constructed, motorStepper]

/-- A stepper slot is free when none of its rivals is constructed (R267). -/
@[simp] theorem checkFails_conflict_stepper (st : Stepper) :
    checkFails .conflict i (.stepper st) s = !stepperFree s st := by
  cases st <;> simp [checkFails, stepperFree, rivals, constructed, coil1, coil2, Bool.or_assoc]

/-- The product of R268 is 0 when one of its factors is. -/
@[simp] theorem checkFails_speedZero (st : Stepper) (rpm : Half) :
    checkFails .speedZero (.stepperSpeed st rpm) (.stepper st) s =
      decide (speedProduct (getStepper s.revsteps st) rpm = 0) := by
  simp [speedProduct, checkFails, rpmOf, ← BitVec.toNat_inj]

theorem needEnabled_eq (o : Owner) :
    needEnabled s p = if checkFails .enabled i o s then .raise .notEnabled else p := by
  rw [needEnabled, checkFails_enabled]; cases s.enabled <;> rfl

theorem needMotor_eq (n : Motor) :
    needMotor s n p = if checkFails .initialized i (.motor n) s then .raise .notInitialized else p := by
  rw [needMotor, checkFails_initialized_motor]; cases getMotor s.dcInit n <;> rfl

theorem needStepper_eq (st : Stepper) :
    needStepper s st p = if checkFails .initialized i (.stepper st) s then .raise .notInitialized else p := by
  rw [needStepper, checkFails_initialized_stepper]; cases getStepper s.stInit st <;> rfl

theorem needSpeedSet_eq (st : Stepper) :
    needSpeedSet s st p = if checkFails .speedSet i (.stepper st) s then .raise .speedUnset else p := by
  rw [needSpeedSet, checkFails_speedSet]; cases getStepper s.speedSet st <;> rfl

theorem needFree_motor_eq (n : Motor) :
    needFree (motorFree s n) p = if checkFails .conflict i (.motor n) s then .raise .resourceConflict else p := by
  rw [needFree, checkFails_conflict_motor]; cases motorFree s n <;> rfl

theorem needFree_stepper_eq (st : Stepper) :
    needFree (stepperFree s st) p = if checkFails .conflict i (.stepper st) s then .raise .resourceConflict else p := by
  rw [needFree, checkFails_conflict_stepper]; cases stepperFree s st <;> rfl

theorem needSpeed_eq (st : Stepper) (rpm : Half) :
    needSpeed (speedProduct (getStepper s.revsteps st) rpm) p =
      if checkFails .speedZero (.stepperSpeed st rpm) (.stepper st) s then .raise .speedZero else p := by
  simp only [needSpeed, checkFails_speedZero, decide_eq_true_eq]

end

/-- The plan of a well-formed command is its row of checks before its plan (R270, R272). -/
theorem planOf_eq_guarded {i : Instr} (hwf : i.wf = true) (s : State) :
    planOf i s = guarded i s (checksOf i) (passedPlan i s) := by
  cases i with
  | enable => rfl
  | writeLatch v => exact needEnabled_eq _ s _ _
  | setDuty ch v => rfl
  | dcInit n => exact (needEnabled_eq _ s _ _).trans (congrArg _ (needFree_motor_eq _ s _ n))
  | dcRun n dir => exact (needEnabled_eq _ s _ _).trans (congrArg _ (needMotor_eq _ s _ n))
  | dcSpeed n v => exact needMotor_eq _ s _ n
  | stepperInit st rs => exact (needEnabled_eq _ s _ _).trans (congrArg _ (needFree_stepper_eq _ s _ st))
  | stepperSpeed st rpm => exact (needStepper_eq _ s _ st).trans (congrArg _ (needSpeed_eq s _ st rpm))
  | onestep st dir sty =>
    exact (needStepDir_pass _ hwf).trans ((needEnabled_eq _ s _ _).trans (congrArg _ (needStepper_eq _ s _ st)))
  | step st n dir sty =>
    exact (needStepDir_pass _ hwf).trans ((needEnabled_eq _ s _ _).trans (congrArg _
      ((needStepper_eq _ s _ st).trans (congrArg _ (needSpeedSet_eq _ s _ st)))))
  | release st => exact (needEnabled_eq _ s _ _).trans (congrArg _ (needStepper_eq _ s _ st))

/-- The first check that fails is the plan's fault (R272). -/
theorem planOf_of_firstFailure_eq_some {i : Instr} {s : State} {code : FaultCode} (hwf : i.wf = true)
    (h : firstFailure i s = some code) : planOf i s = .raise code := by
  obtain ⟨k, hk, rfl⟩ := Option.map_eq_some_iff.mp h
  rw [planOf_eq_guarded hwf, guarded_of_find?_eq_some _ hk]

/-- With no check failing, the plan is the one behind the checks. -/
theorem planOf_of_firstFailure_eq_none {i : Instr} {s : State} (hwf : i.wf = true) (h : firstFailure i s = none) :
    planOf i s = passedPlan i s := by
  rw [planOf_eq_guarded hwf, guarded_of_find?_eq_none _ (Option.map_eq_none_iff.mp h)]

/-- What the checks of a command ask of a state (R270). -/
def Passes (i : Instr) (s : State) : Prop :=
  match i with
  | .enable => True
  | .writeLatch _ => s.enabled = true
  | .setDuty _ _ => True
  | .dcInit n => s.enabled = true ∧ motorFree s n = true
  | .dcRun n _ => s.enabled = true ∧ getMotor s.dcInit n = true
  | .dcSpeed n _ => getMotor s.dcInit n = true
  | .stepperInit st _ => s.enabled = true ∧ stepperFree s st = true
  | .stepperSpeed st rpm => getStepper s.stInit st = true ∧ speedProduct (getStepper s.revsteps st) rpm ≠ 0
  | .onestep st _ _ => s.enabled = true ∧ getStepper s.stInit st = true
  | .step st _ _ _ => s.enabled = true ∧ getStepper s.stInit st = true ∧ getStepper s.speedSet st = true
  | .release st => s.enabled = true ∧ getStepper s.stInit st = true

/-- No check of its row fails exactly when the state has what they ask. -/
theorem firstFailure_eq_none_iff (i : Instr) (s : State) : firstFailure i s = none ↔ Passes i s := by
  rw [firstFailure, Option.map_eq_none_iff, List.find?_eq_none]
  cases i <;> simp [checksOf, slotOf, Passes]

/-- A well-formed command whose checks pass carries out the plan behind them. -/
theorem exec_of_firstFailure_eq_none {i : Instr} {s : State} (hwf : i.wf = true) (h : firstFailure i s = none) :
    exec i s = .next (perform (passedPlan i s) s) := by
  rw [exec_eq_perform, planOf_of_firstFailure_eq_none hwf h]

/-- Settles O10: the plan of a command whose check fails raises that check's fault. -/
theorem firstFailingCheckIsRaised : Obligations.FirstFailingCheckIsRaised := by
  intro i s code hwf h
  rw [exec_eq_perform, planOf_of_firstFailure_eq_some hwf h, perform_raise]

/-- Settles O12: the direction is checked before everything else. -/
theorem stepperTakesNoOtherDirection : Obligations.StepperTakesNoOtherDirection := by
  intro s st n dir sty hdir
  have hraise (p : Plan) : needStepDir dir p = .raise .badDirection := by simp [needStepDir, hdir]
  rw [exec_eq_perform, exec_eq_perform, planOf, planOf, planOnestep, planStep, hraise, hraise, perform_raise]
  exact ⟨rfl, rfl⟩

/-! ### Only a raised fault touches the fault registers (R262) -/

/-- `t` has the fault registers of `s`. -/
structure FaultKept (s t : State) : Prop where
  fault : t.fault = s.fault
  faultCode : t.faultCode = s.faultCode
  faultCmd : t.faultCmd = s.faultCmd

@[simp] theorem transact_fault (v : Byte) (ups : List Update) (s : State) : (transact v ups s).fault = s.fault := by
  simp [transact_eq, afterPins]
@[simp] theorem transact_faultCode (v : Byte) (ups : List Update) (s : State) :
    (transact v ups s).faultCode = s.faultCode := by simp [transact_eq, afterPins]
@[simp] theorem transact_faultCmd (v : Byte) (ups : List Update) (s : State) :
    (transact v ups s).faultCmd = s.faultCmd := by simp [transact_eq, afterPins]

@[simp] theorem finishWait_fault (s : State) : (finishWait s).fault = s.fault := by unfold finishWait; split <;> rfl
@[simp] theorem finishWait_faultCode (s : State) : (finishWait s).faultCode = s.faultCode := by
  unfold finishWait; split <;> rfl
@[simp] theorem finishWait_faultCmd (s : State) : (finishWait s).faultCmd = s.faultCmd := by
  unfold finishWait; split <;> rfl

/-- A plan that raises no fault leaves the fault registers alone. -/
theorem faultKept_perform {p : Plan} (hp : ∀ code, p ≠ .raise code) (s : State) : FaultKept s (perform p s) := by
  cases p with
  | raise code => exact absurd rfl (hp code)
  | _ => constructor <;> simp [perform, enableEdge, finishDivide, stepMove]

theorem passedPlan_ne_raise (i : Instr) (s : State) (code : FaultCode) : passedPlan i s ≠ .raise code := by
  cases i with
  | step st n dir sty => rw [passedPlan]; split <;> nofun
  | _ => nofun

/-- Settles O11: the plan behind the checks raises no fault. -/
theorem commandPassingItsChecksCompletes : Obligations.CommandPassingItsChecksCompletes := by
  intro i s hwf h
  have hkept := faultKept_perform (passedPlan_ne_raise i s) s
  exact ⟨_, exec_of_firstFailure_eq_none hwf h, hkept.fault, hkept.faultCode, hkept.faultCmd⟩

/-- No command raises the code 0 (R263). -/
theorem planOf_raise_ne_none {i : Instr} {s : State} {code : FaultCode} (h : planOf i s = .raise code) :
    code ≠ .none := by
  obtain ⟨c, hc, hne⟩ | ⟨_, _, hk⟩ | hk | ⟨_, _, hk⟩ | hk | ⟨_, _, hk⟩ | ⟨_, _, _, hk, _⟩ := plan_kinds i s
  · cases hc.symm.trans h
    exact hne
  all_goals cases hk.symm.trans h

/-- Settles O9: a transaction that leaves a fault on an unfaulted block is a raised fault. -/
theorem faultsArePrecise : Obligations.FaultsArePrecise := by
  intro i s t hs hexec ht
  cases (exec_eq_perform i s).symm.trans hexec
  by_cases hraise : ∃ code, planOf i s = .raise code
  · obtain ⟨code, hcode⟩ := hraise
    rw [hcode, perform_raise]
    exact ⟨planOf_raise_ne_none hcode, rfl⟩
  · have hkept := faultKept_perform (fun code hcode => hraise ⟨code, hcode⟩) s
    cases hs.symm.trans (hkept.fault.symm.trans ht)

end Sys2Proof.Machine
end

section
/-! PROOF. What each command leaves when its checks pass, everything else included (spec/40_latch_pwm.md R150 to R152;
spec/41_dc_motor.md R182 to R184; spec/42_stepper.md R218 to R222), and the commands that leave the same state when issued
twice (spec/20_memory.md R82). -/

namespace Sys2Proof.Machine

/-! ### ENABLE, WRITE_LATCH, SET_DUTY -/

theorem exec_enable (s : State) :
    exec .enable s = .next { transferred 0 s.duty s with oeN := false, enabled := true, clock := s.clock + 19 } := by
  rw [exec_eq_perform, planOf, planEnable, perform, transact_eq]
  rfl

theorem exec_writeLatch {s : State} (v : Byte) (hen : s.enabled = true) :
    exec (.writeLatch v) s = .next (transferred v s.duty s) := by
  rw [exec_eq_perform, planOf, planWriteLatch, needEnabled_pass _ hen, perform_transfer, transact_eq]
  rfl

theorem exec_setDuty (s : State) (ch : Channel) (v : Byte) :
    exec (.setDuty ch v) s = .next { s with duty := setChannel s.duty ch v, clock := s.clock + 1 } := rfl

/-- Settles O14: a transfer of 0 and the edge that opens the outputs. -/
theorem enableOpensTheOutputs : Obligations.EnableOpensTheOutputs := exec_enable

/-- Settles O15: a transfer of the byte. -/
theorem writeLatchReplacesTheByte : Obligations.WriteLatchReplacesTheByte := fun _ v hen => exec_writeLatch v hen

/-- Settles O16: one update at the accepting edge. -/
theorem setDutyWritesOneDuty : Obligations.SetDutyWritesOneDuty := exec_setDuty

/-! ### DC_INIT, DC_RUN, DC_SPEED -/

theorem exec_dcInit {s : State} {n : Motor} (hen : s.enabled = true) (hfree : motorFree s n = true) :
    exec (.dcInit n) s =
      .next { transferred (mergeBits s.latchState (maskDC s.cfg n) 0) (setChannel s.duty (motorChannel n) 0) s with
        dcInit := setMotor s.dcInit n true } := by
  rw [exec_eq_perform, planOf, planDcInit, needEnabled_pass _ hen, hfree, needFree_pass, perform_transfer, transact_eq]
  rfl

/-- The duties a DC_RUN leaves: RELEASE turns the slot's channel off, the others keep it (R181). -/
def dcRunDuty (d : PerChannel Byte) (n : Motor) : Direction → PerChannel Byte
  | .forward => d
  | .backward => d
  | .brake => d
  | .release => setChannel d (motorChannel n) 0

theorem exec_dcRun {s : State} {n : Motor} (dir : Direction) (hen : s.enabled = true)
    (hn : getMotor s.dcInit n = true) :
    exec (.dcRun n dir) s =
      .next (transferred (mergeBits s.latchState (maskDC s.cfg n) (dcBits s.cfg n dir)) (dcRunDuty s.duty n dir) s) := by
  rw [exec_eq_perform, planOf, planDcRun_pass hen hn, perform_transfer, transact_eq]
  cases dir <;> rfl

theorem exec_dcSpeed {s : State} {n : Motor} (v : Byte) (hn : getMotor s.dcInit n = true) :
    exec (.dcSpeed n v) s =
      .next { s with duty := setChannel s.duty (motorChannel n) v, clock := s.clock + 1 } := by
  rw [exec_eq_perform, planOf, planDcSpeed, needMotor_pass _ hn]
  rfl

/-- Settles O20: both checks pass, and the transfer clears the slot's bits. -/
theorem dcInitConstructsAFreeSlot : Obligations.DcInitConstructsAFreeSlot := by
  intro s n hen hn hst
  rw [exec_dcInit hen ((motorFree_iff s n).2 ⟨hn, hst⟩), mergeBits_zero]

/-- Settles O21: the four directions of one transfer. -/
theorem dcRunSetsTheBitPair : Obligations.DcRunSetsTheBitPair := by
  intro s n hen hn kept
  have hrun (dir : Direction) := exec_dcRun dir hen hn
  refine ⟨hrun .forward, hrun .backward, hrun .brake, ?_⟩
  rw [hrun .release, dcBits, mergeBits_zero]
  rfl

/-- Settles O22: one update at the accepting edge. -/
theorem dcSpeedWritesItsDuty : Obligations.DcSpeedWritesItsDuty := fun _ _ v hn => exec_dcSpeed v hn

/-! ### STEPPER_INIT and STEPPER_SPEED -/

theorem exec_stepperInit {s : State} {st : Stepper} (rs : Half) (hen : s.enabled = true)
    (hfree : stepperFree s st = true) :
    exec (.stepperInit st rs) s =
      .next { transferred (mergeBits s.latchState (maskST s.cfg st) 0) (withCoilDuties s.duty st 0 0) s with
        stInit := setStepper s.stInit st true
        revsteps := setStepper s.revsteps st rs
        usperstep := setStepper s.usperstep st 0
        speedSet := setStepper s.speedSet st false
        currentstep := setStepper s.currentstep st 0 } := by
  rw [exec_eq_perform, planOf, planStepperInit, needEnabled_pass _ hen, hfree, needFree_pass, perform_transfer,
    transact_eq]
  rfl

/-- `s` after a division that sets the speed of a stepper for an rpm (R219). -/
def speedWritten (s : State) (st : Stepper) (rpm : Half) : State :=
  { s with
    usperstep := setStepper s.usperstep st (usPerStep (getStepper s.revsteps st) rpm)
    speedSet := setStepper s.speedSet st true
    busy := false
    seqState := .idle
    divCount := 0
    pending := []
    clock := s.clock + max 1 s.cfg.lDiv }

theorem exec_stepperSpeed {s : State} {st : Stepper} {rpm : Half} (hst : getStepper s.stInit st = true)
    (hprod : speedProduct (getStepper s.revsteps st) rpm ≠ 0) :
    exec (.stepperSpeed st rpm) s = .next (speedWritten s st rpm) := by
  rw [exec_eq_perform, planOf, planStepperSpeed, needStepper_pass _ hst, needSpeed, if_neg hprod, perform_divide_speed]
  rfl

theorem speedProduct_ne_zero {rs rpm : Half} (hrs : rs ≠ 0) (hrpm : rpm ≠ 0) : speedProduct rs rpm ≠ 0 :=
  Nat.mul_ne_zero (BitVec.toNat_ne.1 hrs) (BitVec.toNat_ne.1 hrpm)

/-- Settles O26: both checks pass, and the transfer commits the slot's first values. -/
theorem stepperInitConstructsAFreeSlot : Obligations.StepperInitConstructsAFreeSlot := by
  intro s st rs hen hst hcoil1 hcoil2
  rw [exec_stepperInit rs hen ((stepperFree_iff s st).2 ⟨hst, hcoil1, hcoil2⟩), mergeBits_zero]

/-- What a division clears is clear already on a ready block with nothing in flight. -/
theorem quiet_fields_eq {s : State} (hinv : Inv s) (hready : cmdReady s = true) :
    { s with busy := false, seqState := .idle, divCount := 0, pending := [] } = s := by
  obtain ⟨hbusy, -, hidle⟩ := (cmdReady_iff s).1 hready
  obtain ⟨-, -, hdiv, hpending⟩ := ready_quiet hinv.good hready
  rw [← hbusy, ← hidle, ← hdiv, ← hpending]

/-- Settles O27: on a quiet block the division writes the speed and nothing else. -/
theorem stepperSpeedDividesDown : Obligations.StepperSpeedDividesDown := by
  intro s st rpm hinv hready hlegal hst hrs hrpm
  have hcycles : max 1 s.cfg.lDiv = s.cfg.lDiv := Nat.max_eq_right hlegal.divider
  rw [exec_stepperSpeed hst (speedProduct_ne_zero hrs hrpm), speedWritten, hcycles]
  exact congrArg (fun x : State => Host.Outcome.next
    { x with
      usperstep := setStepper s.usperstep st (usPerStep (getStepper s.revsteps st) rpm)
      speedSet := setStepper s.speedSet st true
      clock := s.clock + s.cfg.lDiv }) (quiet_fields_eq hinv hready)

/-- Settles O28: the quotient rounds down, and it fits its 32 bits. -/
theorem speedIsWithinAMicrosecond : Obligations.SpeedIsWithinAMicrosecond := by
  intro s st rpm hst hrs hrpm
  have hprod : speedProduct (getStepper s.revsteps st) rpm ≠ 0 := speedProduct_ne_zero hrs hrpm
  refine ⟨_, exec_stepperSpeed hst hprod, ?_⟩
  have hfits : 60000000 / speedProduct (getStepper s.revsteps st) rpm < 2 ^ 32 :=
    (Nat.div_le_self _ _).trans_lt (by decide)
  have hus : (getStepper (speedWritten s st rpm).usperstep st).toNat =
      60000000 / speedProduct (getStepper s.revsteps st) rpm := by
    rw [speedWritten, getStepper_setStepper_same, usPerStep, BitVec.toNat_ofNat, Nat.mod_eq_of_lt hfits]
  rw [hus]
  exact ⟨Nat.div_mul_le_self _ _, Nat.lt_mul_of_div_lt (Nat.lt_succ_self _) (Nat.pos_of_ne_zero hprod)⟩

/-! ### ONESTEP, STEP, RELEASE -/

/-- Settles O29: one transfer of StepOnce. -/
theorem onestepMovesOneStride : Obligations.OnestepMovesOneStride :=
  fun _ _ _ sty hdir hen hst => exec_onestep sty hdir hen hst

/-- Settles O30: the first transaction of STEP is one step of it from its first boundary. -/
theorem stepMakesItsFirstStep : Obligations.StepMakesItsFirstStep := by
  intro s st n dir sty hdir hready hn p out v d wait
  rw [exec_step_pos sty hdir hready hn, stepMove_eq]
  rfl

/-- Settles O32: one transfer that clears the slot. -/
theorem releaseClearsTheCoils : Obligations.ReleaseClearsTheCoils := by
  intro s st hen hst
  rw [exec_release hen hst, mergeBits_zero]

/-! ### The same command twice (R82) -/

/-- The command completes, and issued again it leaves the same state but for the record of the run. -/
def RepeatsItself (i : Instr) (s : State) : Prop :=
  ∃ t u, exec i s = .next t ∧ exec i t = .next u ∧ architectural u = architectural t

/-- A read-modify-write done twice is done once. -/
theorem mergeBits_idem (old mask set : Byte) (h : set &&& ~~~mask = 0) :
    mergeBits (mergeBits old mask set) mask set = mergeBits old mask set := mergeBits_mergeBits old mask set set h

theorem dcRunDuty_idem (d : PerChannel Byte) (n : Motor) (dir : Direction) :
    dcRunDuty (dcRunDuty d n dir) n dir = dcRunDuty d n dir := by
  cases dir with
  | release => exact setChannel_setChannel _ _ _ _
  | _ => rfl

/-- Transferring the same byte with the same duties again changes only the record of the run. -/
theorem architectural_transferred {v v' : Byte} {d d' : PerChannel Byte} (s : State) (hv : v' = v) (hd : d' = d) :
    architectural (transferred v' d' (transferred v d s)) = architectural (transferred v d s) := by
  subst hv hd; rfl

theorem repeatsItself_enable (s : State) : RepeatsItself .enable s := ⟨_, _, exec_enable s, exec_enable _, rfl⟩

theorem repeatsItself_writeLatch {s : State} (v : Byte) (hen : s.enabled = true) : RepeatsItself (.writeLatch v) s :=
  ⟨_, _, exec_writeLatch v hen, exec_writeLatch v hen, architectural_transferred s rfl rfl⟩

theorem repeatsItself_setDuty (s : State) (ch : Channel) (v : Byte) : RepeatsItself (.setDuty ch v) s := by
  refine ⟨_, _, exec_setDuty s ch v, exec_setDuty _ ch v, ?_⟩
  rw [setChannel_setChannel]
  rfl

theorem repeatsItself_dcRun {s : State} {n : Motor} (dir : Direction) (hen : s.enabled = true)
    (hn : getMotor s.dcInit n = true) : RepeatsItself (.dcRun n dir) s :=
  ⟨_, _, exec_dcRun dir hen hn, exec_dcRun dir hen hn,
    architectural_transferred s (mergeBits_idem _ _ _ (dcBits_outside _ _ _)) (dcRunDuty_idem _ _ _)⟩

theorem repeatsItself_dcSpeed {s : State} {n : Motor} (v : Byte) (hn : getMotor s.dcInit n = true) :
    RepeatsItself (.dcSpeed n v) s := by
  refine ⟨_, _, exec_dcSpeed v hn, exec_dcSpeed v hn, ?_⟩
  rw [setChannel_setChannel]
  rfl

theorem repeatsItself_stepperSpeed {s : State} {st : Stepper} {rpm : Half} (hst : getStepper s.stInit st = true)
    (hprod : speedProduct (getStepper s.revsteps st) rpm ≠ 0) : RepeatsItself (.stepperSpeed st rpm) s := by
  refine ⟨_, _, exec_stepperSpeed hst hprod, exec_stepperSpeed hst hprod, ?_⟩
  simp [architectural, speedWritten]

theorem repeatsItself_release {s : State} {st : Stepper} (hen : s.enabled = true) (hst : getStepper s.stInit st = true) :
    RepeatsItself (.release st) s :=
  ⟨_, _, exec_release hen hst, exec_release hen hst,
    architectural_transferred s (mergeBits_idem _ _ _ BitVec.zero_and) (withCoilDuties_withCoilDuties _ _ _ _ _ _)⟩

/-- Settles O43: what the seven commands write does not depend on what they write. -/
theorem repeatedCommandsLeaveTheSameState : Obligations.RepeatedCommandsLeaveTheSameState := by
  intro s n dir ch st v rpm i hi _ hchecks
  rw [firstFailure_eq_none_iff] at hchecks
  simp only [List.mem_cons, List.not_mem_nil, or_false] at hi
  obtain rfl | rfl | rfl | rfl | rfl | rfl | rfl := hi
  · exact repeatsItself_enable s
  · exact repeatsItself_writeLatch v hchecks
  · exact repeatsItself_setDuty s ch v
  · exact repeatsItself_dcRun dir hchecks.1 hchecks.2
  · exact repeatsItself_dcSpeed v hchecks
  · exact repeatsItself_stepperSpeed hchecks.1 hchecks.2
  · exact repeatsItself_release hchecks.1 hchecks.2

end Sys2Proof.Machine
end

section
/-! SUPPORT. A list of updates reads and writes the registers of a commit only (spec/00_scope.md R14), and what no operation
but a reset takes back: the configuration, `enabled`, `fault` and the construction flags (spec/10_state.md R28 to R32). -/

namespace Sys2Proof.Machine

/-! ### The registers a commit can write -/

/-- `s` with the registers an update can write taken from `r`. -/
def withRegisters (r s : State) : State :=
  { s with
    latchState := r.latchState
    duty := r.duty
    busy := r.busy
    dcInit := r.dcInit
    stInit := r.stInit
    currentstep := r.currentstep
    revsteps := r.revsteps
    usperstep := r.usperstep
    speedSet := r.speedSet
    result := r.result
    seqState := r.seqState
    stepsRemaining := r.stepsRemaining
    usRemaining := r.usRemaining
    prescale := r.prescale }

theorem applyUpdate_withRegisters (u : Update) (r s : State) :
    applyUpdate u (withRegisters r s) = withRegisters (applyUpdate u r) s := by
  cases u with
  | stepWait w => unfold applyUpdate startWait; dsimp only; split <;> rfl
  | _ => rfl

theorem applyAll_withRegisters (us : List Update) (r s : State) :
    applyAll us (withRegisters r s) = withRegisters (applyAll us r) s := by
  induction us generalizing r with
  | nil => rfl
  | cons u us ih => rw [applyAll_cons, applyAll_cons, applyUpdate_withRegisters, ih]

/-- What a list of updates makes of a state depends on those registers alone, and touches no other. -/
theorem applyAll_of_same_registers (us : List Update) {r s : State} (h : withRegisters r s = s) :
    applyAll us s = withRegisters (applyAll us r) s := by
  rw [← applyAll_withRegisters, h]

/-! ### What only a reset takes back -/

/-- `t` has the configuration of `s`, and every flag that is set in `s`. -/
def Persists (s t : State) : Prop :=
  t.cfg = s.cfg ∧ (s.enabled = true → t.enabled = true) ∧ (s.fault = true → t.fault = true) ∧
    (∀ n, getMotor s.dcInit n = true → getMotor t.dcInit n = true) ∧
    (∀ st, getStepper s.stInit st = true → getStepper t.stInit st = true)

theorem Persists.refl (s : State) : Persists s s := ⟨rfl, id, id, fun _ => id, fun _ => id⟩

theorem Persists.trans {s t u : State} (h : Persists s t) (h' : Persists t u) : Persists s u := by
  obtain ⟨hcfg, hen, hfault, hdc, hst⟩ := h
  obtain ⟨hcfg', hen', hfault', hdc', hst'⟩ := h'
  exact ⟨hcfg'.trans hcfg, hen' ∘ hen, hfault' ∘ hfault, fun n => hdc' n ∘ hdc n, fun st => hst' st ∘ hst st⟩

/-- An update only ever constructs a slot. -/
theorem persists_applyUpdate (u : Update) (s : State) : Persists s (applyUpdate u s) := by
  cases u with
  | dcInit n =>
    refine ⟨rfl, id, id, fun m h => ?_, fun _ => id⟩
    rw [applyUpdate, getMotor_setMotor]; split <;> [rfl; exact h]
  | stInit st =>
    refine ⟨rfl, id, id, fun _ => id, fun st' h => ?_⟩
    rw [applyUpdate, getStepper_setStepper]; split <;> [rfl; exact h]
  | stepWait w => unfold applyUpdate startWait; dsimp only; split <;> exact .refl s
  | _ => exact .refl s

theorem persists_applyAll (us : List Update) (s : State) : Persists s (applyAll us s) := by
  induction us generalizing s with
  | nil => exact .refl s
  | cons u us ih => exact (persists_applyUpdate u s).trans (ih _)

theorem persists_commitEdge (s : State) : Persists s (commitEdge s) :=
  persists_applyAll s.pending { drivePins s.ser s.srclk true s with seqState := .idle, xferCycle := 0, pending := [] }

theorem persists_transact (v : Byte) (ups : List Update) (s : State) : Persists s (transact v ups s) :=
  persists_commitEdge (shiftedOut v ups s)

theorem persists_finishWait (s : State) : Persists s (finishWait s) := by
  unfold finishWait; split <;> exact .refl s

theorem persists_enableEdge (s : State) : Persists s (enableEdge s) :=
  ⟨rfl, fun _ => rfl, id, fun _ => id, fun _ => id⟩

theorem persists_finishDivide (ups : List Update) (s : State) : Persists s (finishDivide ups s) :=
  persists_applyAll ups s

theorem persists_raiseFault (code : FaultCode) (s : State) : Persists s (raiseFault code s) :=
  ⟨rfl, id, fun _ => rfl, fun _ => id, fun _ => id⟩

theorem persists_stepMove (s : State) : Persists s (stepMove s) :=
  (persists_transact _ _ s).trans (persists_finishWait _)

theorem persists_perform (p : Plan) (s : State) : Persists s (perform p s) := by
  cases p with
  | raise code => exact persists_raiseFault code s
  | instant ups => exact persists_applyAll ups s
  | transfer v ups => exact persists_transact v ups { s with busy := true }
  | enable =>
    exact (persists_transact 0 [.latchState 0] { s with busy := true }).trans
      (persists_enableEdge (transact 0 [.latchState 0] { s with busy := true }))
  | divide ups => exact persists_finishDivide ups s
  | steps ctx n => exact persists_stepMove { s with stepCtx := ctx, stepsRemaining := n, busy := true }

theorem persists_startPlan (p : Plan) (s : State) : Persists s (startPlan p s) := by
  cases p with
  | raise code => exact persists_raiseFault code s
  | instant ups => exact persists_applyAll ups s
  | divide ups => unfold startPlan; dsimp only; split <;> [exact persists_finishDivide ups s; exact .refl s]
  | _ => exact .refl s

theorem persists_sequencerEdge (s : State) : Persists s (sequencerEdge s) := by
  unfold sequencerEdge
  split
  case h_1 => unfold idleEdge; split <;> [split; skip] <;> [exact .refl s; exact persists_enableEdge s; exact .refl s]
  case h_2 => unfold xferEdge; dsimp only; split <;> [exact persists_commitEdge s; split <;> exact .refl s]
  case h_3 => unfold waitEdge; split <;> [split; skip] <;> exact .refl s
  case h_4 => unfold divEdge; split <;> [exact persists_finishDivide _ s; exact .refl s]

theorem persists_clockEdge (s : State) : Persists s (clockEdge s) := by
  unfold clockEdge
  dsimp only
  split
  · exact persists_startPlan _ { s with cmdValid := false }
  · exact persists_sequencerEdge s

/-- A step persists what `Persists` names, unless it is a reset. -/
theorem persists_of_moves {s t : State} (h : Moves s t) (hreset : ∀ rest, s.env ≠ .reset :: rest) : Persists s t := by
  cases h with
  | accept => exact persists_perform _ (taken s)
  | further => exact persists_stepMove s
  | edge => exact persists_clockEdge s
  | reset _ henv => exact absurd henv (hreset _)
  | clock rest => exact persists_clockEdge { s with env := rest }
  | tick => exact .refl s
  | readAddr => exact .refl s
  | present => exact .refl s

/-- Settles O59: a reset keeps the configuration too. -/
theorem configurationNeverChanges : Obligations.ConfigurationNeverChanges := by
  intro s t hstep
  by_cases hreset : ∃ rest, s.env = .reset :: rest
  · obtain ⟨rest, henv⟩ := hreset
    cases (step_reset henv).symm.trans hstep
    rfl
  · exact (persists_of_moves (moves_of_step hstep) fun rest h => hreset ⟨rest, h⟩).1

/-- Settles O60: no operation but a reset clears a flag. -/
theorem flagsAreClearedOnlyByReset : Obligations.FlagsAreClearedOnlyByReset := by
  intro s t hreset hstep
  exact (persists_of_moves (moves_of_step hstep) hreset).2

/-! ### A block stuck in a fault (R262, R275) -/

/-- An idle block that is not busy only lets its clock pass, where nothing is accepted. -/
theorem clockEdge_resting {s : State} (hacc : accepts s = false) (hidle : s.seqState = .idle) (hbusy : s.busy = false) :
    clockEdge s = { s with clock := s.clock + 1 } := by
  have hedge : sequencerEdge s = s := by simp [sequencerEdge, idleEdge, hidle, hbusy]
  rw [clockEdge_of_not_accepts hacc, hedge]

/-- Settles O8: a faulted block is idle and not busy, so it neither accepts a command nor has a step left to make. -/
theorem faultHoldsUntilReset : Obligations.FaultHoldsUntilReset := by
  intro s t hinv hfault hreset hstep
  obtain ⟨hidle, hbusy⟩ := hinv.good.stuckIsIdle hfault
  have hacc : accepts s = false := by simp [accepts, cmdReady, hfault]
  cases moves_of_step hstep with
  | accept h => cases hacc.symm.trans h
  | further _ hb => cases hbusy.symm.trans ((atStepBoundary_iff s).1 hb).1
  | edge => rw [clockEdge_resting hacc hidle hbusy]
  | reset _ henv => exact absurd henv (hreset _)
  | clock rest => rw [clockEdge_resting (s := { s with env := rest }) hacc hidle hbusy]
  | tick => rfl
  | readAddr => rfl
  | present => rfl

end Sys2Proof.Machine
end

section
/-! SUPPORT. Transactions keep a state good: one lemma for each kind of change, then one for each command
(spec/10_state.md R44; spec/42_stepper.md R221, R232). -/

namespace Sys2Proof.Machine

/-! ### Single changes of a good state -/

section
variable {s : State} (hg : Good s)
include hg

/-- An idle block that shows a byte just transferred is good, with or without steps left to make (R145, R147). -/
theorem good_shown (hidle : s.seqState = .idle) (v : Byte) {n : Half} {b : Bool} (hsteps : n ≠ 0 → b = true)
    (hstuck : s.fault = true → b = false) :
    Good { afterPins v s with latchState := v, stepsRemaining := n, busy := b } :=
  { hg with
    busyWhileActive := fun h => absurd rfl h
    stuckIsIdle := fun h => ⟨rfl, hstuck h⟩
    shown := fun _ => rfl
    shiftRange := Nat.zero_le _
    stepsBusy := hsteps
    enabling := fun _ _ _ => rfl
    waitOnly := fun _ => hg.waitOnly (by simp [hidle])
    divideOnly := fun _ => hg.divideOnly (by simp [hidle])
    pendingOnly := fun _ => rfl }

theorem good_withPhase (st : Stepper) {p : Byte} (hp : p.toNat < phases s.cfg) :
    Good { s with currentstep := setStepper s.currentstep st p } :=
  { hg with
    phase := fun st' => by
      show (getStepper (setStepper s.currentstep st p) st').toNat < phases s.cfg
      rw [getStepper_setStepper]
      split <;> [exact hp; exact hg.phase st'] }

/-- A free DC slot can be constructed (R267). -/
theorem good_withMotor {n : Motor} (hfree : motorFree s n = true) :
    Good { s with dcInit := setMotor s.dcInit n true } :=
  { hg with
    owners := fun st hst => by
      have hst : getStepper s.stInit st = true := hst
      have hother : getStepper s.stInit (motorStepper n) = false := ((motorFree_iff s n).1 hfree).2
      have hshare : coil1 st ≠ n ∧ coil2 st ≠ n := by
        constructor <;> (rintro rfl; cases st <;> cases hother.symm.trans hst)
      show getMotor (setMotor _ _ _) _ = false ∧ getMotor (setMotor _ _ _) _ = false
      rw [getMotor_setMotor_ne _ _ hshare.1, getMotor_setMotor_ne _ _ hshare.2]
      exact hg.owners st hst }

/-- A free stepper slot can be constructed (R267). -/
theorem good_withStepper {st : Stepper} (hfree : stepperFree s st = true) :
    Good { s with stInit := setStepper s.stInit st true } :=
  { hg with
    owners := fun st' hst' => by
      obtain rfl | hne := eq_or_ne st' st
      · exact ((stepperFree_iff s st').1 hfree).2
      · exact hg.owners st' ((getStepper_setStepper_ne _ _ hne).symm.trans hst') }

/-- A busy block has raised no fault (R262). -/
theorem fault_of_busy (hbusy : s.busy = true) : s.fault = false := by
  by_contra h
  cases hbusy.symm.trans (hg.stuckIsIdle (Bool.not_eq_false _ ▸ h)).2

/-- A wait can start on an idle block with a step to make; a wait of 0 is over at once (R232). -/
theorem good_startWait (hidle : s.seqState = .idle) (hbusy : s.busy = true) (w : Word) : Good (startWait w s) := by
  have hfault := fault_of_busy hg hbusy
  unfold startWait
  dsimp only
  split
  next hw =>
    exact { hg with
      busyWhileActive := fun h => absurd rfl h
      stuckIsIdle := fun h => by cases hfault.symm.trans h
      prescaleRange := Nat.zero_lt_of_lt hg.prescaleRange
      stepsBusy := decide_eq_true
      enabling := fun _ hb h0 => absurd h0 (of_decide_eq_true hb)
      waitOnly := fun _ => hw
      divideOnly := fun _ => hg.divideOnly (by simp [hidle])
      pendingOnly := fun _ => hg.pendingOnly (.inl hidle) }
  next =>
    exact { hg with
      busyWhileActive := fun _ => hbusy
      stuckIsIdle := fun h => by cases hfault.symm.trans h
      prescaleRange := Nat.zero_lt_of_lt hg.prescaleRange
      stepsBusy := fun _ => hbusy
      enabling := fun h => nomatch h
      waitOnly := fun h => absurd rfl h
      divideOnly := fun _ => hg.divideOnly (by simp [hidle])
      pendingOnly := fun _ => hg.pendingOnly (.inl hidle) }

/-- A wait can end: the block stays busy exactly while steps remain (R232). -/
theorem good_endWait (hwait : s.seqState = .wait) : Good (endWait { s with usRemaining := 0, prescale := 0 }) :=
  { hg with
    busyWhileActive := fun h => absurd rfl h
    stuckIsIdle := fun h => by cases hwait.symm.trans (hg.stuckIsIdle h).1
    prescaleRange := Nat.zero_lt_of_lt hg.prescaleRange
    stepsBusy := decide_eq_true
    enabling := fun _ hb h0 => absurd h0 (of_decide_eq_true hb)
    waitOnly := fun _ => rfl
    divideOnly := fun _ => hg.divideOnly (by simp [hwait])
    pendingOnly := fun _ => hg.pendingOnly (.inr hwait) }

theorem good_finishWait : Good (finishWait s) := by
  unfold finishWait
  split
  next hwait => exact { good_endWait hg hwait with }
  all_goals exact hg

/-- The edge after ENABLE's commit opens outputs that already hold the byte they will show (R150). -/
theorem good_enableEdge (hidle : s.seqState = .idle) (hbusy : s.busy = true) (hsteps : s.stepsRemaining = 0) :
    Good (enableEdge s) :=
  { hg with
    busyWhileActive := fun h => absurd hidle h
    stuckIsIdle := fun _ => ⟨hidle, rfl⟩
    outputsOpen := rfl
    shown := fun _ => hg.enabling hidle hbusy hsteps
    stepsBusy := fun h => absurd hsteps h
    enabling := fun _ h => nomatch h }

end

/-! ### A ready block -/

section
variable {s : State} (hg : Good s) (hready : cmdReady s = true)
include hg hready

theorem good_transferred (v : Byte) (d : PerChannel Byte) : Good (transferred v d s) := by
  obtain ⟨-, -, hidle⟩ := (cmdReady_iff s).1 hready
  have hsteps : s.stepsRemaining = 0 := (ready_quiet hg hready).1
  exact { good_shown hg hidle v (n := s.stepsRemaining) (b := false) (fun h => absurd hsteps h) (fun _ => rfl) with }

theorem good_raiseFault {code : FaultCode} (hcode : code ≠ .none) : Good (raiseFault code s) := by
  obtain ⟨hbusy, -, hidle⟩ := (cmdReady_iff s).1 hready
  exact { hg with
    stuckIsIdle := fun _ => ⟨hidle, hbusy⟩
    codeOfFault := ⟨nofun, fun h => absurd h hcode⟩ }

theorem good_finishDivide (st : Stepper) (us : Word) :
    Good (finishDivide [.usperstep st us, .speedSet st true] s) := by
  obtain ⟨hsteps, hus, -, -⟩ := ready_quiet hg hready
  exact { hg with
    busyWhileActive := fun h => absurd rfl h
    stuckIsIdle := fun _ => ⟨rfl, rfl⟩
    dividerRange := Nat.zero_le _
    stepsBusy := fun h => absurd hsteps h
    enabling := fun _ h => nomatch h
    waitOnly := fun _ => hus
    divideOnly := fun _ => rfl
    pendingOnly := fun _ => rfl }

/-- ENABLE's commit shows the byte 0, before its last edge (R150). -/
theorem good_transact_enable : Good (transact 0 [.latchState 0] { s with busy := true }) := by
  obtain ⟨-, hfault, hidle⟩ := (cmdReady_iff s).1 hready
  exact { good_shown hg hidle 0 (n := s.stepsRemaining) (fun _ => rfl) (fun h => by cases hfault.symm.trans h) with }

end

/-! ### A running STEP (R221) -/

/-- `s` with a STEP under way: its context, its steps still to make, and `busy` set (R221). -/
def running (ctx : StepCtx) (n : Half) (s : State) : State :=
  { s with stepCtx := ctx, stepsRemaining := n, busy := true }

/-- A busy block is running what it is running. -/
theorem running_self {s : State} (hbusy : s.busy = true) : running s.stepCtx s.stepsRemaining s = s := by
  rw [running, ← hbusy]

section
variable {s : State} (hg : Good s) (hidle : s.seqState = .idle) (hfault : s.fault = false) {n : Half} (hn : n ≠ 0)
include hg hidle hfault

/-- The commit of a step shows its byte and starts its wait (R214, R221). -/
theorem good_transact_running (ctx : StepCtx) :
    Good (transact (runningByte (running ctx n s)) (runningUpdates (running ctx n s)) (running ctx n s)) := by
  have hshown := good_shown hg hidle (runningByte (running ctx n s)) (n := n) (b := true) (fun _ => rfl)
    (fun h => by cases hfault.symm.trans h)
  have hstepped := good_withPhase hshown ctx.stepper
    (nextPhase_lt s.cfg ctx.dir ctx.style (getStepper s.currentstep ctx.stepper))
  have hcommitted : Good (applyAll (stepUpdates (running ctx n s) ctx.stepper ctx.dir ctx.style)
      (afterPins (runningByte (running ctx n s)) (running ctx n s))) := { hstepped with }
  have hwait := good_startWait hcommitted rfl rfl ctx.spacing
  rw [transact_eq]
  exact { hwait with }

theorem good_stepMove_running (ctx : StepCtx) : Good (stepMove (running ctx n s)) :=
  good_finishWait (good_transact_running hg hidle hfault ctx)

end

/-- A step of a running STEP keeps the state good. -/
theorem good_stepMove {s : State} (hg : Good s) (hb : atStepBoundary s = true) : Good (stepMove s) := by
  obtain ⟨hbusy, hidle, -⟩ := (atStepBoundary_iff s).1 hb
  have hmove := good_stepMove_running hg hidle (fault_of_busy hg hbusy) s.stepCtx (n := s.stepsRemaining)
  rwa [running_self hbusy] at hmove

/-! ### Every command -/

/-- The plan of an ill-formed term raises BAD_DIRECTION (R104). -/
theorem planOf_of_not_wf {i : Instr} (hwf : i.wf = false) (s : State) : planOf i s = .raise .badDirection := by
  have hraise {dir : Direction} (h : dir.steps = false) (p : Plan) : needStepDir dir p = .raise .badDirection := by
    simp [needStepDir, h]
  cases i with
  | onestep st dir sty => exact hraise hwf _
  | step st n dir sty => exact hraise hwf _
  | _ => cases hwf

/-- A command accepted on a ready block leaves a good state. -/
theorem good_perform_planOf {s : State} (hg : Good s) (hready : cmdReady s = true) (i : Instr) :
    Good (perform (planOf i s) s) := by
  obtain ⟨-, hfault, hidle⟩ := (cmdReady_iff s).1 hready
  have raised {code : FaultCode} (h : planOf i s = .raise code) : Good (perform (planOf i s) s) := by
    rw [h]
    exact { good_raiseFault hg hready (planOf_raise_ne_none h) with }
  have left {t : State} (h : exec i s = .next t) (ht : Good t) : Good (perform (planOf i s) s) := by
    cases (exec_eq_perform i s).symm.trans h
    exact ht
  cases hwf : i.wf with
  | false => exact raised (planOf_of_not_wf hwf s)
  | true =>
    cases hchecks : firstFailure i s with
    | some code => exact raised (planOf_of_firstFailure_eq_some hwf hchecks)
    | none =>
      have hpass := (firstFailure_eq_none_iff i s).1 hchecks
      have shown := good_transferred hg hready
      cases i with
      | enable =>
        exact { good_enableEdge (good_transact_enable hg hready) rfl rfl (ready_quiet hg hready).1 with }
      | writeLatch v => exact left (exec_writeLatch v hpass) (shown _ _)
      | setDuty ch v => exact { hg with }
      | dcInit n =>
        obtain ⟨hen, hfree⟩ := hpass
        exact left (exec_dcInit hen hfree) (good_withMotor (shown _ _) hfree)
      | dcRun n dir =>
        obtain ⟨hen, hn⟩ := hpass
        exact left (exec_dcRun dir hen hn) (shown _ _)
      | dcSpeed n v => exact left (exec_dcSpeed v hpass) { hg with }
      | stepperInit st rs =>
        obtain ⟨hen, hfree⟩ := hpass
        have hzero : (0 : Byte).toNat < phases s.cfg := by have := phases_cases s.cfg; simp; omega
        exact left (exec_stepperInit rs hen hfree)
          { good_withPhase (good_withStepper (shown _ s.duty) hfree) st hzero with }
      | stepperSpeed st rpm =>
        obtain ⟨hst, hprod⟩ := hpass
        exact left (exec_stepperSpeed hst hprod) { good_finishDivide hg hready st 0 with }
      | onestep st dir sty =>
        obtain ⟨hen, hst⟩ := hpass
        exact left (exec_onestep sty hwf hen hst) { good_withPhase (shown _ s.duty) st (nextPhase_lt ..) with }
      | step st n dir sty =>
        obtain ⟨hen, hst, hset⟩ := hpass
        by_cases hn : n = 0
        · subst hn
          exact left (exec_step_zero sty hwf ⟨hen, hst, hset⟩) { hg with }
        · exact left (exec_step_pos sty hwf ⟨hen, hst, hset⟩ hn) (good_stepMove_running hg hidle hfault _)
      | release st =>
        obtain ⟨hen, hst⟩ := hpass
        exact left (exec_release hen hst) (shown _ _)

end Sys2Proof.Machine
end

section
/-! PROOF. Every step keeps the invariant (spec/10_state.md R33, R36, R41, R44; spec/40_latch_pwm.md R145, R147): what the
transfer or the division in progress will leave is a good state, from its first edge to its last. -/

namespace Sys2Proof.Machine

/-! ### The fields no commit looks at -/

/-- `s` with the level of `SER`, the PWM generators, the host's inputs, the waiting moves and the clock of `x`. -/
def withAmbient (x s : State) : State :=
  { s with
    ser := x.ser
    pwmCnt := x.pwmCnt
    pwmActive := x.pwmActive
    cmdValid := x.cmdValid
    cmdWord := x.cmdWord
    rdAddr := x.rdAddr
    env := x.env
    clock := x.clock }

theorem applyAll_withAmbient (us : List Update) (x s : State) :
    applyAll us (withAmbient x s) = withAmbient x (applyAll us s) := by
  rw [applyAll_of_same_registers us (r := s) (s := withAmbient x s) rfl,
    applyAll_of_same_registers us (r := s) (s := s) rfl]
  rfl

/-- `s` at its commit edge, before the pending updates take effect (R145). -/
def atCommit (s : State) : State :=
  { drivePins s.ser s.srclk true s with seqState := .idle, xferCycle := 0, pending := [] }

/-- `s` with the output event of the commit that led to it (R17). -/
def recorded (s : State) : State := { s with events := ⟨s.outQ, s.duty, eventWait s⟩ :: s.events }

theorem commitEdge_eq (s : State) : commitEdge s = recorded (applyAll s.pending (atCommit s)) := rfl

theorem atCommit_withAmbient (x s : State) : atCommit (withAmbient x s) = withAmbient x (atCommit s) := by
  simp [atCommit, withAmbient, drivePins]

theorem commitEdge_withAmbient (x s : State) : commitEdge (withAmbient x s) = withAmbient x (commitEdge s) := by
  rw [commitEdge_eq, commitEdge_eq, atCommit_withAmbient]
  exact congrArg recorded (applyAll_withAmbient s.pending x (atCommit s))

theorem finishDivide_withAmbient (ups : List Update) (x s : State) :
    finishDivide ups (withAmbient x s) = withAmbient x (finishDivide ups s) := by
  simp only [finishDivide, applyAll_withAmbient]
  rfl

/-- The divider's count and the clock do not matter to what a division leaves. -/
theorem finishDivide_withDivCount (ups : List Update) (s : State) (d n : Nat) :
    finishDivide ups { s with divCount := d, clock := n } = { finishDivide ups s with clock := n } := by
  have h : applyAll ups { s with divCount := d, clock := n } =
      withRegisters (applyAll ups s) { s with divCount := d, clock := n } := applyAll_of_same_registers ups rfl
  have h0 : applyAll ups s = withRegisters (applyAll ups s) s := applyAll_of_same_registers ups rfl
  rw [finishDivide, finishDivide, h, h0]
  rfl

theorem good_withAmbient {s : State} (hg : Good s) {x : State} (hcnt : ∀ ch, getChannel x.pwmCnt ch ≤ 254) :
    Good (withAmbient x s) :=
  { hg with counterRange := hcnt }

/-- What the invariant says does not depend on those fields, but for the range of the counters and, during a transfer, the
bit at `SER`. -/
theorem inv_withAmbient {s : State} (h : Inv s) {x : State} (hser : x.ser = s.ser)
    (hcnt : ∀ ch, getChannel x.pwmCnt ch ≤ 254) : Inv (withAmbient x s) where
  good := good_withAmbient h.good hcnt
  shifting hx :=
    have hs := h.shifting hx
    ⟨hs.early, hs.latchClock, hs.shiftClock, hs.shifted, fun hodd => hser.trans (hs.nextBit hodd)⟩
  afterCommit hx := by
    have hcommit := commitEdge_withAmbient { x with ser := s.xferValue.getLsbD 0 }
      (shiftedOut s.xferValue s.pending s)
    have hgood := good_withAmbient (x := { x with ser := s.xferValue.getLsbD 0 }) (h.afterCommit hx) hcnt
    rwa [← hcommit] at hgood
  afterDivide hx := by
    have hgood := good_withAmbient (h.afterDivide hx) hcnt
    rwa [← finishDivide_withAmbient] at hgood

/-! ### The edges of a transfer (R145) -/

/-- After updates a sequencer that was idle or waiting is idle or waiting. -/
theorem applyAll_quiet {us : List Update} {s : State} (h : s.seqState = .idle ∨ s.seqState = .wait) :
    (applyAll us s).seqState = .idle ∨ (applyAll us s).seqState = .wait := by
  induction us generalizing s with
  | nil => exact h
  | cons u us ih =>
    refine ih ?_
    cases u with
    | stepWait w => unfold applyUpdate startWait; dsimp only; split <;> [exact .inl rfl; exact .inr rfl]
    | _ => exact h

theorem good_commitEdge_of_transact {v : Byte} {ups : List Update} {s : State} (h : Good (transact v ups s)) :
    Good (commitEdge (shiftedOut v ups s)) := { h with }

/-- A transfer can start on an idle, unfaulted block when its commit will leave a good state. -/
theorem inv_startTransfer {s : State} (hg : Good s) (hidle : s.seqState = .idle) (hfault : s.fault = false)
    (ctx : StepCtx) (n : Half) {v : Byte} {ups : List Update}
    (hcommit : Good (transact v ups (running ctx n s))) : Inv (startTransfer v ups (running ctx n s)) := by
  have hstart : startTransfer v ups (running ctx n s) = xferAt v ups 0 (running ctx n s) := startTransfer_eq ..
  have hshift : shiftedOut v ups (xferAt v ups 0 (running ctx n s)) = shiftedOut v ups (running ctx n s) := rfl
  have hcommitted := good_commitEdge_of_transact hcommit
  rw [← hshift] at hcommitted
  rw [hstart]
  exact {
    good := { hg with
      busyWhileActive := fun _ => rfl
      stuckIsIdle := fun h => by cases hfault.symm.trans h
      shiftRange := Nat.zero_le _
      stepsBusy := fun _ => rfl
      enabling := nofun
      waitOnly := fun _ => hg.waitOnly (by simp [hidle])
      divideOnly := fun _ => hg.divideOnly (by simp [hidle])
      pendingOnly := nofun }
    shifting := fun _ => ⟨Nat.zero_le _, rfl, nofun, fun i hi => by simp [xferAt] at hi, nofun⟩
    afterCommit := fun _ => hcommitted
    afterDivide := nofun }

/-! ### The edges in flight -/

/-- An edge of a transfer before the commit leaves the output stage and every register alone (R146). -/
theorem xferEdge_before_commit {s : State} (hlast : ¬ 17 ≤ s.xferCycle + 1) :
    xferEdge s = { s with
      ser := (xferEdge s).ser, srclk := (xferEdge s).srclk, sr := (xferEdge s).sr, xferCycle := s.xferCycle + 1 } := by
  rw [xferEdge, if_neg hlast]
  split <;> simp [drivePins]

section
variable {s : State} (h : Inv s)
include h

/-- At the last edge of a transfer the shift stage holds the whole byte, so the commit is the one foreseen (R146). -/
theorem commitEdge_of_last (hxfer : s.seqState = .xfer) (hlast : s.xferCycle = 16) :
    commitEdge (shiftedOut s.xferValue s.pending s) =
      withAmbient { s with ser := s.xferValue.getLsbD 0 } (commitEdge s) := by
  obtain ⟨-, hlatch, hclock, hbits, -⟩ := h.shifting hxfer
  have hsrclk : s.srclk = true := by simpa [hlast] using hclock
  have hsr : s.sr = s.xferValue := BitVec.eq_of_getLsbD_eq fun i hi => by simpa [hlast] using hbits i (by omega)
  have hshift : shiftedOut s.xferValue s.pending s = withAmbient { s with ser := s.xferValue.getLsbD 0 } s := by
    unfold shiftedOut withAmbient
    rw [hsrclk, hlatch, hsr, hxfer, hlast]
  rw [hshift, commitEdge_withAmbient]

/-- The commit foreseen during a transfer is the one its last edge makes. -/
theorem good_commitEdge (hxfer : s.seqState = .xfer) (hlast : s.xferCycle = 16) : Good (commitEdge s) := by
  have hcommit := h.afterCommit hxfer
  rw [commitEdge_of_last h hxfer hlast] at hcommit
  have hcnt : (commitEdge s).pwmCnt = s.pwmCnt := applyAll_pwmCnt s.pending (atCommit s)
  exact { hcommit with counterRange := hcnt ▸ h.good.counterRange }

/-- An edge of a transfer before the commit puts the next bit at `SER` or shifts it in (R145, R146). -/
theorem shifting_xferEdge (hxfer : s.seqState = .xfer) (hlast : ¬ 17 ≤ s.xferCycle + 1) : Shifting (xferEdge s) := by
  obtain ⟨hearly, hlatch, hclock, hbits, hnext⟩ := h.shifting hxfer
  rw [xferEdge, if_neg hlast]
  split
  next hodd =>
    have hhalf : (s.xferCycle + 1) / 2 = s.xferCycle / 2 := by omega
    refine ⟨by simp; omega, hlatch, fun _ => by simp [hodd], fun i hi => ?_, fun _ => by simp [hhalf]⟩
    simp only [hhalf] at hi
    simpa [drivePins, hhalf] using hbits i hi
  next heven =>
    have hodd : s.xferCycle % 2 = 1 := by omega
    have hhalf : (s.xferCycle + 1) / 2 = s.xferCycle / 2 + 1 := by omega
    have hlow : s.srclk = false := by simpa [hodd] using hclock (by omega)
    refine ⟨by simp; omega, hlatch, fun _ => by simp; omega, fun i hi => ?_, fun h => absurd h heven⟩
    simp only [hhalf] at hi
    cases i with
    | zero => simp [drivePins, hlow, hhalf, shiftIn, hnext hodd]
    | succ i =>
      have hi7 : i < 7 := by omega
      have hindex : 7 - s.xferCycle / 2 + (i + 1) = 8 - s.xferCycle / 2 + i := by omega
      simp [drivePins, hlow, hhalf, shiftIn, hbits i (by omega), hi7, hindex]

/-- An edge of a transfer: one level of the shift clock on, or the commit (R145). -/
theorem inv_xferEdge (hxfer : s.seqState = .xfer) : Inv (xferEdge s) := by
  have hcommit := h.afterCommit hxfer
  have hg := h.good
  by_cases hlast : 17 ≤ s.xferCycle + 1
  · have hearly := (h.shifting hxfer).early
    rw [xferEdge, if_pos hlast]
    exact inv_of_quiet (good_commitEdge h hxfer (by omega)) (applyAll_quiet (s := atCommit s) (.inl rfl))
  · have hshifting := shifting_xferEdge h hxfer hlast
    rw [xferEdge_before_commit hlast] at hshifting ⊢
    exact {
      good := { hg with shiftRange := by show s.xferCycle + 1 ≤ 17; omega }
      shifting := fun _ => hshifting
      afterCommit := fun _ => hcommit
      afterDivide := fun hdiv => by cases hxfer.symm.trans hdiv }

/-- An edge of a wait (R232). -/
theorem inv_waitEdge (hwait : s.seqState = .wait) : Inv (waitEdge s) := by
  have hg := h.good
  have waiting {t : State} (hcfg : t = { s with usRemaining := t.usRemaining, prescale := t.prescale })
      (hpre : t.prescale < cycPerUs s.cfg) : Inv t := by
    rw [hcfg]
    exact inv_of_quiet { hg with
      prescaleRange := hpre
      waitOnly := fun h => absurd hwait h } (.inr hwait)
  unfold waitEdge
  split
  next =>
    split
    next => exact inv_of_quiet (good_endWait hg hwait) (.inl rfl)
    next => exact waiting rfl (Nat.zero_lt_of_lt hg.prescaleRange)
  next hmore =>
    exact waiting rfl (by have := hg.prescaleRange; show s.prescale + 1 < _; omega)

/-- An edge of a division (R219). -/
theorem inv_divEdge (hdiv : s.seqState = .div) : Inv (divEdge s) := by
  have hg := h.good
  have hend := h.afterDivide hdiv
  unfold divEdge
  split
  next => exact inv_of_quiet hend (.inl rfl)
  next =>
    exact {
      good := { hg with
        dividerRange := (Nat.sub_le _ _).trans hg.dividerRange
        divideOnly := fun h => absurd hdiv h }
      shifting := fun hx => by cases hdiv.symm.trans hx
      afterCommit := fun hx => by cases hdiv.symm.trans hx
      afterDivide := fun _ => by
        have hsame := finishDivide_withDivCount s.pending s (s.divCount - 1) s.clock
        exact hsame ▸ { hend with } }

/-- An edge of an idle sequencer (R150, R221). -/
theorem inv_idleEdge (hidle : s.seqState = .idle) : Inv (idleEdge s) := by
  have hg := h.good
  unfold idleEdge
  split
  next hbusy =>
    split
    next hsteps =>
      have hfault := fault_of_busy hg hbusy
      have hcommit := good_transact_running hg hidle hfault s.stepCtx (n := s.stepsRemaining)
      have hstart := inv_startTransfer hg hidle hfault _ _ hcommit
      rwa [running_self hbusy] at hstart
    next hsteps => exact inv_of_quiet (good_enableEdge hg hidle hbusy (not_not.1 hsteps)) (.inl hidle)
  next => exact h

theorem inv_sequencerEdge : Inv (sequencerEdge s) := by
  unfold sequencerEdge
  split
  next hs => exact inv_idleEdge h hs
  next hs => exact inv_xferEdge h hs
  next hs => exact inv_waitEdge h hs
  next hs => exact inv_divEdge h hs

end

/-! ### The accepting edge and the transaction of a command -/

/-- The accepting edge of a division sets the divider to work, or is its only edge (R219). -/
theorem inv_startPlan_divide {s : State} (hg : Good s) (hready : cmdReady s = true) (st : Stepper) (us : Word) :
    Inv (startPlan (.divide [.usperstep st us, .speedSet st true]) s) := by
  obtain ⟨-, hfault, hidle⟩ := (cmdReady_iff s).1 hready
  have hend := good_finishDivide hg hready st us
  rw [startPlan]
  split
  next => exact inv_of_quiet hend (.inl rfl)
  next =>
    exact {
      good := { hg with
        busyWhileActive := fun _ => rfl
        stuckIsIdle := fun h => by cases hfault.symm.trans h
        dividerRange := Nat.sub_le _ _
        stepsBusy := fun _ => rfl
        enabling := nofun
        waitOnly := fun _ => (ready_quiet hg hready).2.1
        divideOnly := fun h => absurd rfl h
        pendingOnly := nofun }
      shifting := nofun
      afterCommit := nofun
      afterDivide := fun _ => { hend with } }

/-- The accepting edge of a command on a ready block (R320). -/
theorem inv_startPlan_planOf {s : State} (hg : Good s) (hready : cmdReady s = true) (i : Instr) :
    Inv (startPlan (planOf i s) s) := by
  obtain ⟨-, hfault, hidle⟩ := (cmdReady_iff s).1 hready
  have hend := good_perform_planOf hg hready i
  obtain ⟨c, hk, hc⟩ | ⟨ch, v, hk⟩ | hk | ⟨v, ups, hk⟩ | hk | ⟨st, us, hk⟩ | ⟨ctx, n, -, hk, -⟩ := plan_kinds i s
  all_goals rw [hk] at hend ⊢
  · exact inv_of_quiet (good_raiseFault hg hready hc) (.inl hidle)
  · exact inv_of_quiet { hg with } (.inl hidle)
  · exact inv_of_quiet hg (.inl hidle)
  · exact inv_startTransfer hg hidle hfault s.stepCtx s.stepsRemaining hend
  · exact inv_startTransfer hg hidle hfault s.stepCtx s.stepsRemaining (good_transact_enable hg hready)
  · exact inv_startPlan_divide hg hready st us
  · exact inv_startTransfer hg hidle hfault ctx n (good_transact_running hg hidle hfault ctx)

theorem stepMove_seqState (s : State) : (stepMove s).seqState = .idle := by rw [stepMove_eq]; rfl

/-- The transaction of a plan on an idle block ends with the sequencer idle or waiting. -/
theorem perform_quiet {s : State} (hidle : s.seqState = .idle) (p : Plan) :
    (perform p s).seqState = .idle ∨ (perform p s).seqState = .wait := by
  cases p with
  | raise code => exact .inl hidle
  | instant ups => exact applyAll_quiet (.inl hidle)
  | transfer v ups => exact applyAll_quiet (s := atCommit (shiftedOut v ups { s with busy := true })) (.inl rfl)
  | enable => exact .inl rfl
  | divide ups => exact .inl rfl
  | steps ctx n => exact .inl (stepMove_seqState _)

/-- A plan of the word on a ready port, decoded or not, keeps the invariant, edge by edge and as one transaction. -/
theorem inv_planWord {s : State} (hg : Good s) (hready : cmdReady s = true) (w : Word) :
    Inv (startPlan (planWord w s) s) ∧ Inv (perform (planWord w s) s) := by
  obtain ⟨-, -, hidle⟩ := (cmdReady_iff s).1 hready
  unfold planWord
  split
  next i _ =>
    exact ⟨inv_startPlan_planOf hg hready i, inv_of_quiet (good_perform_planOf hg hready i) (perform_quiet hidle _)⟩
  next why _ =>
    have hraised : Good (raiseFault (decodeFaultCode why) s) := good_raiseFault hg hready (by cases why <;> decide)
    exact ⟨inv_of_quiet hraised (.inl hidle), inv_of_quiet { hraised with } (.inl hidle)⟩

theorem good_taken {s : State} (hg : Good s) : Good (taken s) := { hg with }

theorem inv_withClock {s : State} (n : Nat) (h : Inv s) : Inv { s with clock := n } :=
  inv_withAmbient (x := { s with clock := n }) h rfl h.good.counterRange

/-- Every clock edge keeps the invariant. -/
theorem inv_clockEdge {s : State} (h : Inv s) : Inv (clockEdge s) := by
  have hnext : Inv (if accepts s then startPlan (planWord s.cmdWord (taken s)) (taken s) else sequencerEdge s) := by
    split
    next hacc => exact (inv_planWord (good_taken h.good) ((accepts_iff s).1 hacc).2 _).1
    next => exact inv_sequencerEdge h
  exact inv_withClock (s.clock + 1) hnext

/-- A reset leaves a good state in every configuration whose clock reaches 1 MHz (R301). -/
theorem good_resetEdge {s : State} (hclock : 0 < cycPerUs s.cfg) : Good (resetEdge s) where
  owners st hst := by cases st <;> cases hst
  phase st := by have := phases_cases s.cfg; cases st <;> (show 0 < phases s.cfg; omega)
  busyWhileActive h := absurd rfl h
  stuckIsIdle := nofun
  codeOfFault := ⟨fun _ => rfl, fun _ => rfl⟩
  outputsOpen := rfl
  shown := nofun
  shiftRange := Nat.zero_le _
  prescaleRange := hclock
  dividerRange := Nat.zero_le _
  counterRange ch := by cases ch <;> exact Nat.zero_le _
  stepsBusy h := absurd rfl h
  enabling := nofun
  waitOnly _ := rfl
  divideOnly _ := rfl
  pendingOnly _ := rfl

/-- A counter stays in its range at a tick (R41, R160). -/
theorem nextCount_le {n : Nat} (h : n ≤ 254) : nextCount n ≤ 254 := by unfold nextCount; split <;> omega

theorem counterRange_pwmTick {s : State} (h : ∀ ch, getChannel s.pwmCnt ch ≤ 254) (g : Group) (ch : Channel) :
    getChannel (pwmTick g s).pwmCnt ch ≤ 254 := by
  have hch : getChannel (pwmTick g s).pwmCnt ch =
      if channelGroup ch = g then nextCount (getChannel s.pwmCnt ch) else getChannel s.pwmCnt ch := by cases ch <;> rfl
  rw [hch]
  split <;> [exact nextCount_le (h ch); exact h ch]

/-- Settles O58: each of the moves of `Moves` keeps the invariant. -/
theorem everyStepKeepsTheInvariant : Obligations.EveryStepKeepsTheInvariant := by
  intro s t h hstep
  have hg := h.good
  have ambient {x : State} (hser : x.ser = s.ser) (hcnt : ∀ ch, getChannel x.pwmCnt ch ≤ 254) :
      Inv (withAmbient x s) := inv_withAmbient h hser hcnt
  cases moves_of_step hstep with
  | accept hacc => exact (inv_planWord (good_taken hg) ((accepts_iff s).1 hacc).2 _).2
  | further _ hb => exact inv_of_quiet (good_stepMove hg hb) (.inl (stepMove_seqState s))
  | edge => exact inv_clockEdge h
  | reset rest => exact inv_of_quiet (good_resetEdge (Nat.zero_lt_of_lt hg.prescaleRange)) (.inl rfl)
  | clock rest => exact inv_clockEdge (ambient (x := { s with env := rest }) rfl hg.counterRange)
  | tick g rest => exact ambient (x := pwmTick g { s with env := rest }) rfl (counterRange_pwmTick hg.counterRange g)
  | readAddr a rest => exact ambient (x := { s with env := rest, rdAddr := a }) rfl hg.counterRange
  | present w rest =>
    exact ambient (x := { s with env := rest, cmdValid := true, cmdWord := w }) rfl hg.counterRange

/-- Settles O57: the reset state is what a reset edge leaves, in a configuration of 16 MHz. -/
theorem resetStateIsGood : Obligations.ResetStateIsGood :=
  inv_of_quiet { good_resetEdge (s := State.reset) (by decide) with } (.inl rfl)

end Sys2Proof.Machine
end

section
/-! SUPPORT. The clock edges of a transfer, of a wait, of a division and of a step of a STEP, from the edge that starts them
(spec/40_latch_pwm.md R145 to R149; spec/42_stepper.md R219, R221, R232). -/

namespace Sys2Proof.Machine

/-! ### The clock is only counted -/

theorem transact_withClock (v : Byte) (ups : List Update) (s : State) (n : Nat) :
    transact v ups { s with clock := n } = { transact v ups s with clock := n + 18 } := by
  have h := commitEdge_clock (shiftedOut v ups s) n
  have hshift : shiftedOut v ups { s with clock := n } = { shiftedOut v ups s with clock := n } := rfl
  rw [transact, hshift, h]
  rfl

theorem finishWait_withClock (s : State) (n : Nat) :
    finishWait { s with clock := n } = { finishWait s with clock := n + waitCycles s } := by
  cases h : s.seqState <;> simp only [finishWait, waitCycles, h] <;> rfl

/-! ### The pins of a transfer (R145, R148) -/

/-- Settles O19: the first seventeen edges as `xferAt` says, the last as `transact` leaves the pins. -/
theorem transferWaveform : Obligations.TransferWaveform := by
  intro s v ups e
  have hearly {k : Nat} (hk : k ≤ 16) : e k = xferAt v ups k s := clockEdges_transfer v ups s k hk
  have hlast : e 17 = { transact v ups s with clock := s.clock + 17 } := clockEdges_transact v ups s
  refine ⟨?_, fun i hi => ⟨?_, ?_⟩, ?_, fun k hk => ?_⟩
  · rw [hearly (Nat.zero_le _)]
    exact ⟨rfl, rfl, rfl⟩
  · rw [hearly (by omega)]
    simp [xferAt]
  · have hhalf : (1 + 2 * i) / 2 = i := by omega
    rw [hearly (by omega)]
    simp [xferAt, hhalf]
  · rw [hlast, transact_eq]
    simp [afterPins]
  · obtain hk | rfl := Nat.lt_succ_iff_lt_or_eq.1 (Nat.lt_succ_of_le hk)
    · rw [hearly (by omega)]
      rfl
    · rw [hlast, transact_eq]
      simp [afterPins]

/-- The commit leaves the pins as the last row says: eighteen edges in all make the transfer. -/
theorem clockEdges_whole_transfer (v : Byte) (ups : List Update) (s : State) :
    clockEdges 17 (startTransfer v ups { s with clock := s.clock + 1 }) = transact v ups s := by
  rw [clockEdges_transact, transact_withClock]
  rfl

/-! ### A wait (R232) -/

/-- Settles O54: the wait after `j` edges, and the edge that ends it. -/
theorem waitCountsMicroseconds : Obligations.WaitCountsMicroseconds := by
  intro s j hlegal hwait hpre hus
  have hc := cycPerUs_pos hlegal
  constructor
  · intro hj
    have hfits : s.usRemaining.toNat - j / cycPerUs s.cfg < 2 ^ 32 := (Nat.sub_le _ _).trans_lt s.usRemaining.isLt
    rw [clockEdges_wait s j hc hwait hpre hj]
    exact ⟨hwait, Nat.mod_eq_of_lt hfits, rfl⟩
  · rintro rfl
    rw [clockEdges_wholeWait s hc hwait hpre hus, finishWait, hwait]
    exact ⟨rfl, rfl, rfl, rfl⟩

/-! ### A division (R219) -/

/-- An edge in a division. -/
theorem clockEdge_div {s : State} (h : s.seqState = .div) :
    clockEdge s = { divEdge s with clock := s.clock + 1 } := by
  rw [clockEdge_of_not_accepts (accepts_of_active (by simp [h]))]
  simp [sequencerEdge, h]

/-- `s`, a division that has just started, `j` edges on (R219). -/
def divideAt (j : Nat) (s : State) : State := { s with divCount := s.divCount - j, clock := s.clock + j }

/-- A division in progress counts down before its last edge. -/
theorem clockEdges_divide {s : State} (hdiv : s.seqState = .div) {j : Nat} (hj : j < s.divCount) :
    clockEdges j s = divideAt j s := by
  induction j with
  | zero => rfl
  | succ j ih =>
    have hmore : ¬ (divideAt j s).divCount ≤ 1 := by show ¬ s.divCount - j ≤ 1; omega
    rw [clockEdges_succ, ih (by omega), clockEdge_div (s := divideAt j s) hdiv, divEdge, if_neg hmore]
    rfl

/-- The last edge of a division writes its result (R219). -/
theorem clockEdges_wholeDivide {s : State} (hdiv : s.seqState = .div) (hcount : 0 < s.divCount) :
    clockEdges s.divCount s = { finishDivide s.pending s with clock := s.clock + s.divCount } := by
  obtain ⟨d, hd⟩ : ∃ d, s.divCount = d + 1 := ⟨_, (Nat.succ_pred_eq_of_pos hcount).symm⟩
  have hone : (divideAt d s).divCount ≤ 1 := by show s.divCount - d ≤ 1; omega
  have hend : finishDivide (divideAt d s).pending (divideAt d s) =
      { finishDivide s.pending s with clock := s.clock + d } := finishDivide_withDivCount _ _ _ _
  rw [hd, clockEdges_succ, clockEdges_divide hdiv (by omega), clockEdge_div (s := divideAt d s) hdiv, divEdge,
    if_pos hone, hend]
  rfl

/-! ### One step of a STEP with its wait (R221, R232) -/

section
variable (s : State)

/-- A step's updates end with the start of its wait (R221). -/
theorem applyAll_runningUpdates (x : State) : applyAll (runningUpdates s) x = startWait s.stepCtx.spacing
    (applyAll (stepUpdates s s.stepCtx.stepper s.stepCtx.dir s.stepCtx.style) x) := rfl

theorem transact_running_usRemaining :
    (transact (runningByte s) (runningUpdates s) s).usRemaining = s.stepCtx.spacing := by
  rw [transact_eq, applyAll_runningUpdates]; exact startWait_usRemaining _ _

theorem transact_running_prescale : (transact (runningByte s) (runningUpdates s) s).prescale = 0 := by
  rw [transact_eq, applyAll_runningUpdates]; exact startWait_prescale _ _

/-- A wait of 0 is over at the commit (R232). -/
theorem transact_running_seqState_of_zero (h : s.stepCtx.spacing = 0) :
    (transact (runningByte s) (runningUpdates s) s).seqState = .idle := by
  rw [transact_eq, applyAll_runningUpdates, startWait, if_pos h]; rfl

section
variable {s} (h : s.stepCtx.spacing ≠ 0)
include h

theorem transact_running_seqState : (transact (runningByte s) (runningUpdates s) s).seqState = .wait := by
  rw [transact_eq, applyAll_runningUpdates, startWait, if_neg h]

theorem transact_running_busy : (transact (runningByte s) (runningUpdates s) s).busy = s.busy := by
  rw [transact_eq, applyAll_runningUpdates, startWait, if_neg h]; rfl

end
end

section
variable {s : State} (hc : 0 < cycPerUs s.cfg)
include hc

/-- The wait after a step's commit, edge by edge (R232). -/
theorem clockEdges_stepWait {j : Nat} (hj : j < s.stepCtx.spacing.toNat * cycPerUs s.cfg) :
    clockEdges j (transact (runningByte s) (runningUpdates s) s) =
      waitAt j (transact (runningByte s) (runningUpdates s) s) := by
  have hw : s.stepCtx.spacing ≠ 0 := by rintro h; simp [h] at hj
  refine clockEdges_wait _ j ?_ (transact_running_seqState hw) (transact_running_prescale s) ?_
  · rwa [transact_cfg]
  · rwa [transact_cfg, transact_running_usRemaining]

/-- The whole wait after a step's commit (R232). -/
theorem clockEdges_wholeStepWait :
    clockEdges (s.stepCtx.spacing.toNat * cycPerUs s.cfg) (transact (runningByte s) (runningUpdates s) s) =
      stepMove s := by
  by_cases hw : s.stepCtx.spacing = 0
  · have hnone : (0 : Word).toNat * cycPerUs s.cfg = 0 := Nat.zero_mul _
    rw [hw, hnone, stepMove, finishWait, transact_running_seqState_of_zero s hw]
    rfl
  · have hpos : 0 < s.stepCtx.spacing.toNat := by bv_omega
    have hwhole := clockEdges_wholeWait (transact (runningByte s) (runningUpdates s) s) (by rwa [transact_cfg])
      (transact_running_seqState hw) (transact_running_prescale s) (by rwa [transact_running_usRemaining])
    rwa [transact_cfg, transact_running_usRemaining] at hwhole

/-- From the edge that starts a step's transfer, its remaining edges leave what the transaction leaves (R233). -/
theorem clockEdges_step :
    clockEdges (17 + s.stepCtx.spacing.toNat * cycPerUs s.cfg)
        (startTransfer (runningByte s) (runningUpdates s) { s with clock := s.clock + 1 }) = stepMove s := by
  rw [clockEdges_add, clockEdges_whole_transfer, clockEdges_wholeStepWait hc]

end

/-- At a boundary between two steps an edge starts the next transfer (R221). -/
theorem clockEdge_boundary {s : State} (hb : atStepBoundary s = true) :
    clockEdge s = startTransfer (runningByte s) (runningUpdates s) { s with clock := s.clock + 1 } := by
  obtain ⟨hbusy, hidle, hsteps⟩ := (atStepBoundary_iff s).1 hb
  have hedge : sequencerEdge s = startTransfer (runningByte s) (runningUpdates s) s := by
    simp only [sequencerEdge, hidle, idleEdge, if_pos hbusy, if_pos hsteps]
  rw [clockEdge_of_not_accepts (accepts_of_busy hbusy), hedge]
  rfl

/-- The edges of one step, from boundary to boundary (R233). -/
theorem clockEdges_boundary {s : State} (hc : 0 < cycPerUs s.cfg) (hb : atStepBoundary s = true) :
    clockEdges (18 + s.stepCtx.spacing.toNat * cycPerUs s.cfg) s = stepMove s := by
  have hcount : 18 + s.stepCtx.spacing.toNat * cycPerUs s.cfg =
      17 + s.stepCtx.spacing.toNat * cycPerUs s.cfg + 1 := by omega
  rw [hcount, clockEdges, clockEdge_boundary hb, clockEdges_step hc]

end Sys2Proof.Machine
end

section
/-! PROOF. The clock edges of a whole command leave what its transaction leaves, the port is closed until then, and no register
shows anything of it before the commit (spec/70_reset_and_hazards.md R320, R321; spec/20_memory.md R85). -/

namespace Sys2Proof.Machine

/-! ### The accepting edge -/

/-- The edge that accepts a command carries out the accepting edge of its plan (R38). -/
theorem clockEdge_accept {s : State} {i : Instr} (hacc : accepts s = true) (hdec : decodeWord s.cmdWord = .ok i) :
    clockEdge s = { startPlan (planOf i s) (taken s) with clock := s.clock + 1 } := by
  have hplan : planWord s.cmdWord (taken s) = planOf i s := by
    rw [planWord, hdec]; exact planOf_port i s false s.cmdWord
  rw [clockEdge, if_pos hacc, ← hplan]
  rfl

/-- The plans that start with a transfer. -/
def StartsTransfer (p : Plan) (s : State) : Prop :=
  ∃ v ups ctx n, startPlan p s = startTransfer v ups (running ctx n s)

theorem startsTransfer_transfer (v : Byte) (ups : List Update) (s : State) : StartsTransfer (.transfer v ups) s :=
  ⟨v, ups, s.stepCtx, s.stepsRemaining, rfl⟩

theorem startsTransfer_enable (s : State) : StartsTransfer .enable s :=
  ⟨0, [.latchState 0], s.stepCtx, s.stepsRemaining, rfl⟩

theorem startsTransfer_steps (ctx : StepCtx) (n : Half) (s : State) : StartsTransfer (.steps ctx n) s :=
  ⟨_, _, ctx, n, rfl⟩

/-- Up to the commit of a command that starts with a transfer, only the transfer moves (R145). -/
theorem clockEdges_before_commit {s : State} {i : Instr} (hacc : accepts s = true)
    (hdec : decodeWord s.cmdWord = .ok i) (hp : StartsTransfer (planOf i s) (taken s)) {k : Nat} (h1 : 1 ≤ k)
    (h17 : k ≤ 17) : ∃ v ups ctx n,
      clockEdges k s = xferAt v ups (k - 1) { running ctx n (taken s) with clock := s.clock + 1 } := by
  obtain ⟨v, ups, ctx, n, hstart⟩ := hp
  obtain ⟨j, rfl⟩ : ∃ j, k = j + 1 := ⟨k - 1, by omega⟩
  refine ⟨v, ups, ctx, n, ?_⟩
  rw [clockEdges, clockEdge_accept hacc hdec, hstart]
  exact clockEdges_transfer v ups { running ctx n (taken s) with clock := s.clock + 1 } j (by omega)

/-! ### The transaction of each plan, edge by edge (R320) -/

section
variable {s : State}

theorem clockEdges_enable (hsteps : s.stepsRemaining = 0) :
    clockEdges 18 { startPlan .enable s with clock := s.clock + 1 } = perform .enable s := by
  have hcommit : clockEdges 17 { startPlan .enable s with clock := s.clock + 1 } =
      transact 0 [.latchState 0] { s with busy := true } := clockEdges_whole_transfer 0 _ { s with busy := true }
  have hbusy : (transact 0 [.latchState 0] { s with busy := true }).busy = true := rfl
  have hedge : sequencerEdge (transact 0 [.latchState 0] { s with busy := true }) =
      enableEdge (transact 0 [.latchState 0] { s with busy := true }) := by
    show (if (s.stepsRemaining ≠ 0) then _ else _) = _
    rw [if_neg (not_not_intro hsteps)]
  rw [clockEdges_succ 17, hcommit, clockEdge_of_not_accepts (accepts_of_busy hbusy), hedge]
  rfl

theorem clockEdges_divide_plan (st : Stepper) (us : Word) :
    clockEdges (max 1 s.cfg.lDiv - 1)
        { startPlan (.divide [.usperstep st us, .speedSet st true]) s with clock := s.clock + 1 } =
      perform (.divide [.usperstep st us, .speedSet st true]) s := by
  rw [startPlan, perform]
  split
  next hone =>
    have hmax : max 1 s.cfg.lDiv = 1 := by omega
    rw [hmax]
    rfl
  next hmore =>
    have hmax : max 1 s.cfg.lDiv = s.cfg.lDiv := by omega
    have hclock : s.clock + s.cfg.lDiv = s.clock + 1 + (s.cfg.lDiv - 1) := by omega
    rw [hmax, hclock]
    exact clockEdges_wholeDivide (s := { s with
      busy := true
      seqState := .div
      divCount := s.cfg.lDiv - 1
      pending := [.usperstep st us, .speedSet st true]
      clock := s.clock + 1 }) rfl (by show 0 < s.cfg.lDiv - 1; omega)

/-- From the accepting edge of a command on a ready block, the rest of its first transaction's edges leave what the
transaction leaves. -/
theorem clockEdges_startPlan (hg : Good s) (hready : cmdReady s = true) (hc : 0 < cycPerUs s.cfg) (i : Instr) :
    clockEdges (planCycles (planOf i s) s - 1) { startPlan (planOf i s) s with clock := s.clock + 1 } =
      perform (planOf i s) s := by
  obtain ⟨c, hk, -⟩ | ⟨ch, v, hk⟩ | hk | ⟨v, ups, hk⟩ | hk | ⟨st, us, hk⟩ | ⟨ctx, n, -, hk, -⟩ := plan_kinds i s
  all_goals rw [hk]
  · rfl
  · rfl
  · rfl
  · exact clockEdges_whole_transfer v ups { s with busy := true }
  · exact clockEdges_enable (ready_quiet hg hready).1
  · exact clockEdges_divide_plan st us
  · have hcount : planCycles (.steps ctx n) s - 1 = 17 + ctx.spacing.toNat * cycPerUs s.cfg := by
      rw [planCycles]; omega
    rw [hcount]
    exact clockEdges_step (s := running ctx n s) hc

end

theorem one_le_planCycles (p : Plan) (s : State) : 1 ≤ planCycles p s := by
  cases p <;> simp only [planCycles] <;> omega

/-- The edges of a command's first transaction leave what `perform` leaves (R9, R320). -/
theorem clockEdges_planCycles {s : State} {i : Instr} (hg : Good s) (hc : 0 < cycPerUs s.cfg)
    (hacc : accepts s = true) (hdec : decodeWord s.cmdWord = .ok i) :
    clockEdges (planCycles (planOf i s) s) s = perform (planOf i (taken s)) (taken s) := by
  have hplan : planOf i (taken s) = planOf i s := planOf_port i s false s.cmdWord
  have hedges := clockEdges_startPlan (good_taken hg) ((accepts_iff s).1 hacc).2 hc i
  have hcycles : planCycles (planOf i s) (taken s) = planCycles (planOf i s) s := by cases planOf i s <;> rfl
  rw [hplan, hcycles] at hedges
  rw [hplan, ← hedges, ← Nat.sub_add_cancel (one_le_planCycles (planOf i s) s), clockEdges,
    clockEdge_accept hacc hdec, Nat.add_sub_cancel]
  rfl

/-- Settles O51: each plan's edges one kind at a time, and a further step of a STEP from its boundary. -/
theorem clockEdgesRefineTheTransactions : Obligations.ClockEdgesRefineTheTransactions := by
  refine ⟨fun s i hinv hlegal hvalid hready hdec => ?_, fun s hlegal hb => clockEdges_boundary (cycPerUs_pos hlegal) hb⟩
  have hacc : accepts s = true := (accepts_iff s).2 ⟨hvalid, hready⟩
  rw [clockEdges_planCycles hinv.good (cycPerUs_pos hlegal) hacc hdec]
  exact exec_eq_perform i (taken s)

end Sys2Proof.Machine
end

section
/-! PROOF. The register-read space (spec/10_state.md R45 to R54; spec/20_memory.md R70 to R78): what stands where, what a
command's registers change of it, and what a reset leaves there (spec/70_reset_and_hazards.md R301, R311). -/

namespace Sys2Proof.Machine

/-! ### One byte of the space -/

theorem getD_set_ne {α : Type} (l : List α) {i j : Nat} (v d : α) (h : i ≠ j) : (l.set i v).getD j d = l.getD j d := by
  simp [List.getD_eq_getElem?_getD, List.getElem?_set_ne h]

/-- A byte that is not the address `k` is another number. -/
theorem addr_ne {a : Byte} {k : Nat} (hk : k < 2 ^ 8) (h : a ≠ BitVec.ofNat 8 k) : k ≠ a.toNat := by
  rintro rfl
  exact h (BitVec.eq_of_toNat_eq (Nat.mod_eq_of_lt hk).symm)

/-- A state whose register map differs from another's in one byte reads the same everywhere else. -/
theorem readReg_of_set {s t : State} {k : Nat} {v : Byte} (h : registerMap t = (registerMap s).set k v) {a : Byte}
    (ha : a.toNat ≠ k) : readReg t a = readReg s a := by
  rw [readReg, readReg, h, getD_set_ne _ _ _ ha.symm]

/-! ### A duty register (R47) -/

theorem registerMap_withDuty (s : State) (ch : Channel) (v : Byte) (n : Nat) :
    registerMap { s with duty := setChannel s.duty ch v, clock := n } = (registerMap s).set (4 + ch.idx.toNat) v := by
  cases ch <;> rfl

theorem dutyAddr_toNat (ch : Channel) : (0x04 + ch.idx.setWidth 8 : Byte).toNat = 4 + ch.idx.toNat := by
  cases ch <;> rfl

/-- Settles O17: both commands leave the same state, whose register map differs in the duty's byte. -/
theorem dutyCommandsChangeOneRegister : Obligations.DutyCommandsChangeOneRegister := by
  rintro s ch n v hn rfl
  have hmap := registerMap_withDuty s (motorChannel n) v (s.clock + 1)
  refine ⟨_, exec_setDuty s _ v, exec_dcSpeed v hn, ?_, fun a ha => ?_, rfl, rfl, rfl, rfl, rfl, rfl⟩
  · cases n <;> rfl
  · exact readReg_of_set hmap fun h => ha (BitVec.eq_of_toNat_eq (h.trans (dutyAddr_toNat _).symm))

/-! ### The reserved addresses (R51 to R54) -/

/-- Settles O44: below 0x40 the reserved addresses hold 0, and past the map there is nothing to read. -/
theorem reservedAddressesReadZero : Obligations.ReservedAddressesReadZero := by
  refine ⟨fun s a ha => ?_, fun s a rest henv => ⟨step_readAddr henv, rfl⟩⟩
  unfold readReg
  generalize a.toNat = k at ha ⊢
  by_cases hpast : 0x40 ≤ k
  · exact List.getD_eq_default _ _ hpast
  · obtain rfl | rfl | rfl | ⟨hlo, hhi⟩ | ⟨hlo, hhi⟩ | ⟨hlo, hhi⟩ | h := ha
    · rfl
    · rfl
    · rfl
    · interval_cases k <;> rfl
    · interval_cases k <;> rfl
    · interval_cases k <;> rfl
    · exact absurd h hpast

/-! ### The bits of the flag bytes (R45, R48, R51) -/

theorem flagBits_three : ∀ b0 b1 b2 : Bool,
    let x := flagBit 0 b0 ||| flagBit 1 b1 ||| flagBit 2 b2
    x.getLsbD 0 = b0 ∧ x.getLsbD 1 = b1 ∧ x.getLsbD 2 = b2 ∧ x.toNat < 8 := by decide

theorem flagBits_four : ∀ b0 b1 b2 b3 : Bool,
    let x := flagBit 0 b0 ||| flagBit 1 b1 ||| flagBit 2 b2 ||| flagBit 3 b3
    x.getLsbD 0 = b0 ∧ x.getLsbD 1 = b1 ∧ x.getLsbD 2 = b2 ∧ x.getLsbD 3 = b3 ∧ x.toNat < 16 := by decide

theorem flagBits_six : ∀ b0 b1 b2 b3 b4 b5 : Bool,
    let x := flagBit 0 b0 ||| flagBit 1 b1 ||| flagBit 2 b2 ||| flagBit 3 b3 ||| flagBit 4 b4 ||| flagBit 5 b5
    x.getLsbD 0 = b0 ∧ x.getLsbD 1 = b1 ∧ x.getLsbD 2 = b2 ∧ x.getLsbD 3 = b3 ∧ x.getLsbD 4 = b4 ∧
      x.getLsbD 5 = b5 ∧ x.toNat < 64 := by decide

theorem flagBit_zero : ∀ b : Bool, flagBit 0 b = if b then 1 else 0 := by decide

theorem configMByte_toNat (c : Params) : (configMByte c).toNat = microsteps c := by
  unfold configMByte microsteps; cases c.resolution <;> rfl

/-- Settles O45: each byte is an entry of the register map, and the flag bytes are unions of single bits. -/
theorem registerMapLayout : Obligations.RegisterMapLayout := by
  intro s
  refine ⟨flagBits_three _ _ _, ⟨?_, rfl, rfl⟩, flagBits_six _ _ _ _ _ _, ⟨rfl, rfl, rfl, rfl⟩,
    ⟨rfl, rfl, flagBit_zero _, flagBit_zero _⟩, ⟨configMByte_toNat s.cfg, flagBits_four _ _ _ _⟩⟩
  show faultByte s.faultCode = _
  cases s.faultCode <;> rfl

/-! ### Multi-byte registers (R74, R75) -/

theorem wordBytes_littleEndian (w : Word) :
    (wordByte w 0).toNat + 256 * ((wordByte w 1).toNat + 256 * ((wordByte w 2).toNat + 256 * ((wordByte w 3).toNat +
      256 * 0))) = w.toNat := by
  have hw := w.isLt
  simp only [wordByte, BitVec.extractLsb'_toNat, Nat.shiftRight_eq_div_pow]
  omega

theorem halfBytes_littleEndian (h : Half) : (halfByte h 0).toNat + 256 * ((halfByte h 1).toNat + 256 * 0) = h.toNat := by
  have hh := h.isLt
  simp only [halfByte, BitVec.extractLsb'_toNat, Nat.shiftRight_eq_div_pow]
  omega

/-- Four bytes that are those of a word read as the word (R75). -/
theorem memRead_word {s : State} {a : Byte} {w : Word} (h0 : readReg s a = wordByte w 0)
    (h1 : readReg s (a + 1) = wordByte w 1) (h2 : readReg s (a + 1 + 1) = wordByte w 2)
    (h3 : readReg s (a + 1 + 1 + 1) = wordByte w 3) : memRead s a 4 = w.toNat := by
  have hbytes : memRead s a 4 = (readReg s a).toNat + 256 * ((readReg s (a + 1)).toNat + 256 *
    ((readReg s (a + 1 + 1)).toNat + 256 * ((readReg s (a + 1 + 1 + 1)).toNat + 256 * 0))) := rfl
  rw [hbytes, h0, h1, h2, h3, wordBytes_littleEndian]

/-- Two bytes that are those of a half word read as the half word (R75). -/
theorem memRead_half {s : State} {a : Byte} {h : Half} (h0 : readReg s a = halfByte h 0)
    (h1 : readReg s (a + 1) = halfByte h 1) : memRead s a 2 = h.toNat := by
  have hbytes : memRead s a 2 = (readReg s a).toNat + 256 * ((readReg s (a + 1)).toNat + 256 * 0) := rfl
  rw [hbytes, h0, h1, halfBytes_littleEndian]

/-- Settles O46: the bytes from the register's address on are the register's, least significant first. -/
theorem multiByteRegistersReadLittleEndian : Obligations.MultiByteRegistersReadLittleEndian := fun _ =>
  ⟨memRead_word rfl rfl rfl rfl, memRead_half rfl rfl, memRead_word rfl rfl rfl rfl,
    ⟨memRead_half rfl rfl, memRead_half rfl rfl⟩, memRead_word rfl rfl rfl rfl, memRead_word rfl rfl rfl rfl⟩

/-! ### Reset (R301, R311) -/

/-- After a reset the space holds zeros and the two configuration bytes. -/
theorem registerMap_resetEdge (s : State) :
    registerMap (resetEdge s) =
      ((List.replicate 64 0).set 0x0D (configMByte s.cfg)).set 0x0E (configPwmByte s.cfg) := by
  simp [registerMap, globalRegs, sequencerRegs, stepperRegs, resetEdge, State.reset, statusByte, initFlagsByte,
    sflagsByte, flagBit, wordByte, halfByte, faultByte, getStepper]

theorem readReg_resetEdge (s : State) {a : Byte} (hm : a ≠ 0x0D) (hpwm : a ≠ 0x0E) : readReg (resetEdge s) a = 0 := by
  have hm' : 0x0D ≠ a.toNat := addr_ne (by decide) hm
  have hpwm' : 0x0E ≠ a.toNat := addr_ne (by decide) hpwm
  rw [readReg, registerMap_resetEdge, getD_set_ne _ _ _ hpwm', getD_set_ne _ _ _ hm']
  rw [List.getD_eq_getElem?_getD, List.getElem?_getD_replicate_default_eq]

theorem pwmPin_resetEdge (s : State) (ch : Channel) : pwmPin (resetEdge s) ch = false := by
  unfold pwmPin fallbackOn
  cases ch <;> simp [resetEdge, State.reset, getChannel]

/-- Settles O55: every field of the state a reset edge leaves, and the space computed from them. -/
theorem resetSetsEveryRegister : Obligations.ResetSetsEveryRegister := by
  intro s rest henv
  refine ⟨_, step_reset henv, ?_⟩
  exact ⟨⟨rfl, rfl, rfl, rfl, rfl, rfl, rfl, rfl, rfl⟩, ⟨rfl, rfl, rfl, rfl, rfl⟩,
    ⟨rfl, rfl, rfl, rfl, rfl, rfl, rfl, rfl⟩,
    ⟨rfl, rfl, rfl, rfl, rfl, rfl, pwmPin_resetEdge _, rfl⟩, ⟨rfl, rfl, rfl, rfl⟩, ⟨rfl, rfl, rfl, rfl⟩,
    fun a hm hpwm => readReg_resetEdge _ hm hpwm, configMByte_toNat s.cfg, rfl⟩

/-- Settles O56: ENABLE after a reset edge transfers the byte 0 into a block whose registers are 0. -/
theorem cleanEnabledState : Obligations.CleanEnabledState := by
  intro s rest henv
  exact ⟨_, _, step_reset henv, exec_enable _, rfl, rfl⟩

end Sys2Proof.Machine
end

section
/-! PROOF. While a command runs: no register but the status and the step counter shows it before its commit
(spec/20_memory.md R85; spec/40_latch_pwm.md R147), and the port is closed to its last edge (spec/42_stepper.md R234;
spec/70_reset_and_hazards.md R320). -/

namespace Sys2Proof.Machine

/-! ### Before the commit -/

/-- A latch command whose checks pass starts with a transfer (R145). -/
theorem startsTransfer_passedPlan {i : Instr} {s : State} (h : 18 ≤ planCycles (passedPlan i s) s)
    (hspeed : ∀ st rpm, i ≠ .stepperSpeed st rpm) (x : State) : StartsTransfer (passedPlan i s) x := by
  cases i with
  | enable => exact startsTransfer_enable x
  | writeLatch | dcInit | dcRun | stepperInit | onestep | release => exact startsTransfer_transfer _ _ x
  | setDuty | dcSpeed => exact absurd h (by decide : ¬ 18 ≤ 1)
  | stepperSpeed st rpm => exact absurd rfl (hspeed st rpm)
  | step st n dir sty =>
    rw [passedPlan] at h ⊢
    split at h
    · exact absurd h (by decide : ¬ 18 ≤ 1)
    next hn => rw [if_neg hn]; exact startsTransfer_steps _ _ x

/-- A STEP under way shows in STATUS and in STEPS_REMAINING only (R45, R52). -/
theorem readReg_running (ctx : StepCtx) (n : Half) (s : State) {a : Byte} (h0 : a ≠ 0x00) (h10 : a ≠ 0x10)
    (h11 : a ≠ 0x11) : readReg (running ctx n s) a = readReg s a := by
  have hmap : registerMap (running ctx n s) =
      (((registerMap s).set 0x00 (statusByte (running ctx n s))).set 0x10 (halfByte n 0)).set 0x11 (halfByte n 1) := rfl
  have h0' : 0x00 ≠ a.toNat := addr_ne (by decide) h0
  have h10' : 0x10 ≠ a.toNat := addr_ne (by decide) h10
  have h11' : 0x11 ≠ a.toNat := addr_ne (by decide) h11
  rw [readReg, readReg, hmap, getD_set_ne _ _ _ h11', getD_set_ne _ _ _ h10', getD_set_ne _ _ _ h0']

/-- Settles O53: up to the commit the state is the old one with a transfer in progress. -/
theorem oldValuesUntilTheCommit : Obligations.OldValuesUntilTheCommit := by
  constructor
  · intro s i k a hvalid hready hdec hchecks hlong hspeed h1 h17 h0 h10 h11
    have hplan := planOf_of_firstFailure_eq_none (encodeOfDecodeIsTheWord _ _ hdec).2 hchecks
    rw [hplan] at hlong
    have hstarts := startsTransfer_passedPlan hlong hspeed (taken s)
    rw [← hplan] at hstarts
    obtain ⟨v, ups, ctx, n, hk⟩ := clockEdges_before_commit ((accepts_iff s).2 ⟨hvalid, hready⟩) hdec hstarts h1 h17
    rw [hk]
    exact ⟨readReg_running ctx n (taken s) h0 h10 h11, rfl⟩
  · intro s k hb h17
    cases k with
    | zero => exact ⟨fun _ => rfl, rfl⟩
    | succ j =>
      rw [clockEdges, clockEdge_boundary hb, clockEdges_transfer _ _ _ j (by omega)]
      exact ⟨fun _ => rfl, rfl⟩

/-! ### A running STEP is busy (R221, R232, R234) -/

section
variable {s : State} (hc : 0 < cycPerUs s.cfg) (hb : atStepBoundary s = true)
include hc hb

/-- The block is busy at every edge of a step and of its wait. -/
theorem busy_in_step {k : Nat} (hk : k < 18 + s.stepCtx.spacing.toNat * cycPerUs s.cfg) :
    (clockEdges k s).busy = true := by
  obtain ⟨hbusy, -, -⟩ := (atStepBoundary_iff s).1 hb
  cases k with
  | zero => exact hbusy
  | succ j =>
    rw [clockEdges, clockEdge_boundary hb]
    by_cases hj : j ≤ 16
    · rw [clockEdges_transfer _ _ _ j hj]
      exact hbusy
    · obtain ⟨i, rfl⟩ : ∃ i, j = 17 + i := ⟨j - 17, by omega⟩
      have hi : i < s.stepCtx.spacing.toNat * cycPerUs s.cfg := by omega
      have hwait : s.stepCtx.spacing ≠ 0 := by rintro h; simp [h] at hi
      rw [clockEdges_add, clockEdges_whole_transfer, clockEdges_stepWait hc hi]
      exact (transact_running_busy hwait).trans hbusy

end

/-- The edges of `n` steps with their waits. -/
def stepsCycles (s : State) (n : Nat) : Nat := n * (18 + s.stepCtx.spacing.toNat * cycPerUs s.cfg)

/-- A running STEP is busy to its last edge, and free after it (R234). -/
theorem busy_until_last_step {n : Nat} {s : State} (hc : 0 < cycPerUs s.cfg) (hb : atStepBoundary s = true)
    (hn : s.stepsRemaining.toNat = n + 1) :
    (∀ k < stepsCycles s (n + 1), (clockEdges k s).busy = true) ∧
      (clockEdges (stepsCycles s (n + 1)) s).busy = false ∧
      (clockEdges (stepsCycles s (n + 1)) s).seqState = .idle ∧
      (clockEdges (stepsCycles s (n + 1)) s).fault = s.fault := by
  induction n generalizing s with
  | zero =>
    have hone : stepsCycles s (0 + 1) = 18 + s.stepCtx.spacing.toNat * cycPerUs s.cfg := Nat.one_mul _
    have hlast : s.stepsRemaining - 1 = 0 := by bv_omega
    rw [hone]
    refine ⟨fun k => busy_in_step hc hb, ?_⟩
    rw [clockEdges_boundary hc hb, stepMove_eq]
    exact ⟨decide_eq_false (not_not_intro hlast), rfl, rfl⟩
  | succ n ih =>
    have hedges := clockEdges_boundary hc hb
    have hmove := stepMove_eq s
    have hrem : (stepMove s).stepsRemaining.toNat = n + 1 := by
      rw [hmove]
      show (s.stepsRemaining - 1).toNat = n + 1
      bv_omega
    have hcfg : (stepMove s).cfg = s.cfg := by rw [hmove]; rfl
    have hb' : atStepBoundary (stepMove s) = true := by
      have hne : (stepMove s).stepsRemaining ≠ 0 := fun h => by rw [h] at hrem; cases hrem
      rw [hmove] at hne ⊢
      exact (atStepBoundary_iff _).2 ⟨decide_eq_true hne, rfl, hne⟩
    have hcycles : stepsCycles (stepMove s) (n + 1) = stepsCycles s (n + 1) := by rw [hmove]; rfl
    have hfault : (stepMove s).fault = s.fault := by rw [hmove]; rfl
    have hsum : stepsCycles s (n + 1 + 1) =
        (18 + s.stepCtx.spacing.toNat * cycPerUs s.cfg) + stepsCycles s (n + 1) := by
      rw [stepsCycles, Nat.succ_mul, Nat.add_comm, stepsCycles]
    obtain ⟨hbusy, hend⟩ := ih (hcfg ▸ hc) hb' hrem
    rw [hcycles] at hbusy hend
    constructor
    · intro k hk
      by_cases hfirst : k < 18 + s.stepCtx.spacing.toNat * cycPerUs s.cfg
      · exact busy_in_step hc hb hfirst
      · obtain ⟨j, rfl⟩ := Nat.exists_eq_add_of_le (Nat.le_of_not_lt hfirst)
        rw [clockEdges_add, hedges]
        exact hbusy j (by omega)
    · rw [hsum, clockEdges_add, hedges]
      rwa [hfault] at hend

/-! ### Every command -/

/-- The plan behind the checks, carried out on a ready block, leaves it free, unless it has steps to make. -/
theorem ready_of_passedPlan {i : Instr} {s : State} (hready : cmdReady s = true)
    (hsteps : ∀ ctx n, passedPlan i s ≠ .steps ctx n) : cmdReady (perform (passedPlan i s) s) = true := by
  obtain ⟨hbusy, hfault, hidle⟩ := (cmdReady_iff s).1 hready
  have hkept := (faultKept_perform (passedPlan_ne_raise i s) s).fault.trans hfault
  have hfree : (perform (passedPlan i s) s).busy = false ∧ (perform (passedPlan i s) s).seqState = .idle := by
    cases i with
    | setDuty | dcSpeed => exact ⟨hbusy, hidle⟩
    | dcRun n dir => cases dir <;> exact ⟨rfl, rfl⟩
    | step st n dir sty =>
      by_cases hn : n = 0
      · rw [passedPlan, if_pos hn]
        exact ⟨hbusy, hidle⟩
      · exact absurd (if_neg hn) (hsteps _ _)
    | _ => exact ⟨rfl, rfl⟩
  exact (cmdReady_iff _).2 ⟨hfree.1, hkept, hfree.2⟩

section
variable {s : State} {i : Instr} (hacc : accepts s = true) (hdec : decodeWord s.cmdWord = .ok i)
include hacc hdec

/-- A command that starts with a transfer is busy up to its commit. -/
theorem busy_before_commit (hp : StartsTransfer (planOf i s) (taken s)) {k : Nat} (h1 : 1 ≤ k) (h17 : k ≤ 17) :
    (clockEdges k s).busy = true := by
  obtain ⟨v, ups, ctx, n, hk⟩ := clockEdges_before_commit hacc hdec hp h1 h17
  rw [hk]
  rfl

/-- ENABLE is busy from its commit to its last edge (R150). -/
theorem busy_after_enable_commit (hplan : planOf i s = .enable) : (clockEdges 18 s).busy = true := by
  have hcommit := clockEdges_whole_transfer 0 [.latchState 0] { taken s with busy := true }
  rw [clockEdges, clockEdge_accept hacc hdec, hplan]
  exact (congrArg State.busy hcommit).trans rfl

/-- A division is busy before its last edge (R219). -/
theorem busy_in_divide {ups : List Update} (hplan : planOf i s = .divide ups) {k : Nat} (h1 : 1 ≤ k)
    (hk : k < max 1 s.cfg.lDiv) : (clockEdges k s).busy = true := by
  obtain ⟨j, rfl⟩ : ∃ j, k = j + 1 := ⟨k - 1, by omega⟩
  have hmore : ¬ (taken s).cfg.lDiv ≤ 1 := by show ¬ s.cfg.lDiv ≤ 1; omega
  rw [clockEdges, clockEdge_accept hacc hdec, hplan, startPlan, if_neg hmore]
  have hdiv := clockEdges_divide (j := j) (s := { taken s with
    busy := true
    seqState := .div
    divCount := s.cfg.lDiv - 1
    pending := ups
    clock := s.clock + 1 }) rfl (by show j < s.cfg.lDiv - 1; omega)
  exact (congrArg State.busy hdiv).trans rfl

/-- Once a STEP of `n > 0` is accepted, the edges are those of the STEP under way (R221). -/
theorem clockEdges_steps_accepted {ctx : StepCtx} {n : Half} (hplan : planOf i s = .steps ctx n) (hn : n ≠ 0) {k : Nat}
    (h1 : 1 ≤ k) : atStepBoundary (running ctx n (taken s)) = true ∧
      clockEdges k s = clockEdges k (running ctx n (taken s)) := by
  obtain ⟨j, rfl⟩ : ∃ j, k = j + 1 := ⟨k - 1, by omega⟩
  obtain ⟨-, hready⟩ := (accepts_iff s).1 hacc
  obtain ⟨-, -, hidle⟩ := (cmdReady_iff s).1 hready
  have hb : atStepBoundary (running ctx n (taken s)) = true := (atStepBoundary_iff _).2 ⟨rfl, hidle, hn⟩
  refine ⟨hb, ?_⟩
  rw [clockEdges, clockEdges, clockEdge_accept hacc hdec, hplan, clockEdge_boundary hb]
  rfl

/-- A whole STEP is busy to its last edge and leaves the port ready (R234). -/
theorem busy_in_steps {ctx : StepCtx} {n : Half} (hc : 0 < cycPerUs s.cfg) (hplan : planOf i s = .steps ctx n)
    (hn : n ≠ 0) : (∀ k, 1 ≤ k → k < durationCycles (planOf i s) s → (clockEdges k s).busy = true) ∧
      cmdReady (clockEdges (durationCycles (planOf i s) s) s) = true := by
  obtain ⟨-, hready⟩ := (accepts_iff s).1 hacc
  obtain ⟨-, hfault, -⟩ := (cmdReady_iff s).1 hready
  obtain ⟨m, hm⟩ : ∃ m, n.toNat = m + 1 := ⟨n.toNat - 1, by bv_omega⟩
  have hdur : durationCycles (planOf i s) s = stepsCycles (running ctx n (taken s)) (m + 1) := by
    rw [hplan, durationCycles, hm]; rfl
  have hpos : 1 ≤ durationCycles (planOf i s) s := by
    rw [hdur, stepsCycles]; exact Nat.mul_pos (Nat.succ_pos m) (by omega)
  have haccepted {k : Nat} (h1 : 1 ≤ k) := clockEdges_steps_accepted hacc hdec hplan hn h1
  obtain ⟨hb, hend⟩ := haccepted hpos
  obtain ⟨hbusy, hfree, hidle, hkept⟩ := busy_until_last_step (s := running ctx n (taken s)) hc hb hm
  rw [hend, hdur]
  refine ⟨fun k h1 hk => ?_, (cmdReady_iff _).2 ⟨hfree, hkept.trans hfault, hidle⟩⟩
  rw [(haccepted h1).2]
  exact hbusy k hk

/-- A command of one transaction is busy to its last edge (R320). -/
theorem busy_in_single (hsteps : ∀ ctx n, planOf i s ≠ .steps ctx n) {k : Nat} (h1 : 1 ≤ k)
    (hk : k < planCycles (planOf i s) s) : (clockEdges k s).busy = true := by
  cases hplan : planOf i s with
  | raise | instant =>
    rw [hplan] at hk
    exact absurd hk (Nat.not_lt.2 h1)
  | transfer v ups =>
    rw [hplan] at hk
    exact busy_before_commit hacc hdec (hplan ▸ startsTransfer_transfer v ups (taken s)) h1 (Nat.le_of_lt_succ hk)
  | enable =>
    rw [hplan] at hk
    have hk' : k < 19 := hk
    by_cases h17 : k ≤ 17
    · exact busy_before_commit hacc hdec (hplan ▸ startsTransfer_enable (taken s)) h1 h17
    · obtain rfl : k = 18 := by omega
      exact busy_after_enable_commit hacc hdec hplan
  | divide ups =>
    rw [hplan] at hk
    exact busy_in_divide hacc hdec hplan h1 hk
  | steps ctx n => exact absurd hplan (hsteps ctx n)

end

/-- A plan of steps has steps to make: STEP of 0 is a plan of no change (R235). -/
theorem steps_ne_zero {i : Instr} {s : State} {ctx : StepCtx} {n : Half} (h : planOf i s = .steps ctx n) : n ≠ 0 := by
  have hkinds := plan_kinds i s
  simp only [h, reduceCtorEq, false_and, exists_false, false_or] at hkinds
  obtain ⟨_, _, hn, hk, -⟩ := hkinds
  cases hk
  exact hn

/-- The checks do not look at the command port (R270). -/
theorem passes_taken {i : Instr} {s : State} : Passes i (taken s) ↔ Passes i s := by cases i <;> rfl

/-- Settles O52: each kind of plan is busy to its last edge, a whole STEP step by step, and what is carried out at the last
edge frees the port. -/
theorem portIsClosedForTheDuration : Obligations.PortIsClosedForTheDuration := by
  intro s i hinv hlegal hvalid hready hdec
  have hc := cycPerUs_pos hlegal
  have hacc : accepts s = true := (accepts_iff s).2 ⟨hvalid, hready⟩
  suffices h : (∀ k, 1 ≤ k → k < durationCycles (planOf i s) s → (clockEdges k s).busy = true) ∧
      (firstFailure i s = none → cmdReady (clockEdges (durationCycles (planOf i s) s) s) = true) by
    refine ⟨fun k h1 hk => ⟨h.1 k h1 hk, ?_⟩, fun hchecks => ⟨((cmdReady_iff _).1 (h.2 hchecks)).1, h.2 hchecks⟩⟩
    rw [cmdReady, h.1 k h1 hk]
    rfl
  by_cases hsteps : ∃ ctx n, planOf i s = .steps ctx n
  · obtain ⟨ctx, n, hplan⟩ := hsteps
    have hn : n ≠ 0 := steps_ne_zero hplan
    have hwhole := busy_in_steps hacc hdec hc hplan hn
    exact ⟨hwhole.1, fun _ => hwhole.2⟩
  · have hsingle : durationCycles (planOf i s) s = planCycles (planOf i s) s :=
      durationCycles_single (fun ctx n h => hsteps ⟨ctx, n, h⟩) s
    rw [hsingle, clockEdges_planCycles hinv.good hc hacc hdec]
    refine ⟨fun k h1 => busy_in_single hacc hdec (fun ctx n h => hsteps ⟨ctx, n, h⟩) h1, fun hchecks => ?_⟩
    have hplan : planOf i (taken s) = passedPlan i (taken s) :=
      planOf_of_firstFailure_eq_none (encodeOfDecodeIsTheWord _ _ hdec).2
        ((firstFailure_eq_none_iff i (taken s)).2 (passes_taken.2 ((firstFailure_eq_none_iff i s).1 hchecks)))
    have hsame : planOf i (taken s) = planOf i s := planOf_port i s false s.cmdWord
    rw [hplan]
    exact ready_of_passedPlan (s := taken s) hready fun ctx n h =>
      hsteps ⟨ctx, n, by rw [← hsame, hplan, h]⟩

end Sys2Proof.Machine
end

section
/-! PROOF. A motor command writes in its own slot only (spec/10_state.md R33; spec/20_memory.md R80; spec/41_dc_motor.md
R180; spec/42_stepper.md R202): each update of its plan does, and nothing else of its transaction touches a slot. -/

namespace Sys2Proof.Machine

/-- `t` differs from `s` in slot `o` at most. -/
def OutsideKept (o : Owner) (s t : State) : Prop :=
  (t.latchState &&& ~~~ownerMask s.cfg o = s.latchState &&& ~~~ownerMask s.cfg o) ∧
  (∀ ch, ownsChannel o ch = false → getChannel t.duty ch = getChannel s.duty ch) ∧
  (∀ st, o ≠ .stepper st →
    getStepper t.currentstep st = getStepper s.currentstep st ∧
    getStepper t.revsteps st = getStepper s.revsteps st ∧
    getStepper t.usperstep st = getStepper s.usperstep st ∧
    getStepper t.speedSet st = getStepper s.speedSet st ∧
    getStepper t.stInit st = getStepper s.stInit st) ∧
  (∀ n, o ≠ .motor n → getMotor t.dcInit n = getMotor s.dcInit n)

theorem OutsideKept.refl (o : Owner) (s : State) : OutsideKept o s s :=
  ⟨rfl, fun _ _ => rfl, fun _ _ => ⟨rfl, rfl, rfl, rfl, rfl⟩, fun _ _ => rfl⟩

/-- The update writes in slot `o` of `s` only. -/
def InSlot (o : Owner) (s : State) : Update → Prop
  | .latchState v => v &&& ~~~ownerMask s.cfg o = s.latchState &&& ~~~ownerMask s.cfg o
  | .duty ch _ => ownsChannel o ch = true
  | .dcInit n => o = .motor n
  | .stInit st => o = .stepper st
  | .revsteps st _ => o = .stepper st
  | .usperstep st _ => o = .stepper st
  | .speedSet st _ => o = .stepper st
  | .currentstep st _ => o = .stepper st
  | .result _ => True
  | .busyClear => True
  | .stepWait _ => True

/-- What a stepper slot's update writes is not seen at another stepper. -/
theorem getStepper_setStepper_other {α : Type} {o : Owner} {st t : Stepper} (b : PerStepper α) (v : α)
    (h : o = .stepper st) (ht : o ≠ .stepper t) : getStepper (setStepper b st v) t = getStepper b t :=
  getStepper_setStepper_ne b v (by rintro rfl; exact ht h)

theorem outsideKept_applyUpdate {o : Owner} {s t : State} {u : Update} (hu : InSlot o s u) (h : OutsideKept o s t) :
    OutsideKept o s (applyUpdate u t) := by
  obtain ⟨hlatch, hduty, hst, hdc⟩ := h
  cases u with
  | latchState v => exact ⟨hu, hduty, hst, hdc⟩
  | duty ch v =>
    refine ⟨hlatch, fun d hd => ?_, hst, hdc⟩
    have hne : d ≠ ch := by rintro rfl; exact Bool.false_ne_true (hd.symm.trans hu)
    exact (getChannel_setChannel_ne t.duty v hne).trans (hduty d hd)
  | dcInit n =>
    refine ⟨hlatch, hduty, hst, fun m hm => ?_⟩
    have hne : m ≠ n := by rintro rfl; exact hm hu
    exact (getMotor_setMotor_ne t.dcInit true hne).trans (hdc m hm)
  | stInit | revsteps | usperstep | speedSet | currentstep =>
    exact ⟨hlatch, hduty, fun r hr => by simp [applyUpdate, getStepper_setStepper_other _ _ hu hr, hst r hr], hdc⟩
  | result p => exact ⟨hlatch, hduty, hst, hdc⟩
  | busyClear => exact ⟨hlatch, hduty, hst, hdc⟩
  | stepWait w =>
    unfold applyUpdate startWait
    dsimp only
    split <;> exact ⟨hlatch, hduty, hst, hdc⟩

theorem outsideKept_applyAll {o : Owner} {s t : State} {us : List Update} (hus : ∀ u ∈ us, InSlot o s u)
    (h : OutsideKept o s t) : OutsideKept o s (applyAll us t) := by
  induction us generalizing t with
  | nil => exact h
  | cons u us ih =>
    obtain ⟨hu, hus⟩ := List.forall_mem_cons.1 hus
    exact ih hus (outsideKept_applyUpdate hu h)

/-- A transfer writes no register but those of its updates (R147). -/
theorem outsideKept_transact {o : Owner} {s t : State} (v : Byte) {us : List Update} (hus : ∀ u ∈ us, InSlot o s u)
    (h : OutsideKept o s t) : OutsideKept o s (transact v us t) := by
  have hall : OutsideKept o s (applyAll us (afterPins v t)) := outsideKept_applyAll hus h
  rw [transact_eq]
  exact hall

theorem outsideKept_finishWait {o : Owner} {s t : State} (h : OutsideKept o s t) :
    OutsideKept o s (finishWait t) := by
  unfold finishWait
  split <;> exact h

theorem outsideKept_perform {o : Owner} {s : State} {p : Plan} (hus : ∀ u ∈ planUpdates p s, InSlot o s u) :
    OutsideKept o s (perform p s) := by
  have hs := OutsideKept.refl o s
  cases p with
  | raise code => exact hs
  | instant ups => exact outsideKept_applyAll hus hs
  | transfer v ups => exact outsideKept_transact (t := { s with busy := true }) v hus hs
  | enable => exact outsideKept_transact (t := { s with busy := true }) 0 hus hs
  | divide ups => exact outsideKept_applyAll hus hs
  | steps ctx n => exact outsideKept_finishWait (outsideKept_transact (t := running ctx n s) _ hus hs)

/-! ### The updates of a motor command (R182 to R184, R214 to R222) -/

/-- What holds of the updates behind the checks holds of the plan's: a fault has none (R274). -/
theorem forall_planUpdates {P : Update → Prop} {i : Instr} {s : State} (h : ∀ u ∈ planUpdates (passedPlan i s) s, P u) :
    ∀ u ∈ planUpdates (planOf i s) s, P u := by
  have raised {code : FaultCode} (hplan : planOf i s = .raise code) : ∀ u ∈ planUpdates (planOf i s) s, P u := by
    rw [hplan]
    exact fun u hu => nomatch hu
  cases hwf : i.wf with
  | false => exact raised (planOf_of_not_wf hwf s)
  | true =>
    cases hchecks : firstFailure i s with
    | some code => exact raised (planOf_of_firstFailure_eq_some hwf hchecks)
    | none => rwa [planOf_of_firstFailure_eq_none hwf hchecks]

theorem ownsChannel_chA (st : Stepper) : ownsChannel (.stepper st) (chA st) = true := by simp [ownsChannel]

theorem ownsChannel_chB (st : Stepper) : ownsChannel (.stepper st) (chB st) = true := by simp [ownsChannel]

theorem ownsChannel_motorChannel (n : Motor) : ownsChannel (.motor n) (motorChannel n) = true := decide_eq_true rfl

/-- StepOnce's updates are the stepper's own (R214). -/
theorem inSlot_stepUpdates (s : State) (st : Stepper) (dir : Direction) (sty : Style) :
    ∀ u ∈ stepUpdates s st dir sty, InSlot (.stepper st) s u := by
  simp only [stepUpdates, List.forall_mem_cons]
  exact ⟨mergeBits_outside _ _ _ (phaseOut_set_outside _ _ _ _), ownsChannel_chA st, ownsChannel_chB st, rfl, trivial,
    fun _ h => nomatch h⟩

/-- Every update of a motor command whose checks pass is in the command's slot. -/
theorem inSlot_passedPlan {i : Instr} {o : Owner} (ho : slotOf i = some o) (s : State) :
    ∀ u ∈ planUpdates (passedPlan i s) s, InSlot o s u := by
  cases i with
  | enable => cases ho
  | writeLatch v => cases ho
  | setDuty ch v => cases ho
  | dcInit n =>
    cases ho
    simp only [passedPlan, planUpdates, List.forall_mem_cons]
    exact ⟨mergeBits_outside _ _ _ BitVec.zero_and, ownsChannel_motorChannel n, rfl, trivial, fun _ h => nomatch h⟩
  | dcRun n dir =>
    cases ho
    have hduty : ∀ u ∈ dcDutyUpdates n dir, InSlot (.motor n) s u := by
      cases dir with
      | release => exact List.forall_mem_singleton.2 (ownsChannel_motorChannel n)
      | _ => exact fun _ h => nomatch h
    simp only [passedPlan, planUpdates, List.forall_mem_append, List.forall_mem_singleton]
    exact ⟨⟨mergeBits_outside _ _ _ (dcBits_outside _ _ _), hduty⟩, trivial⟩
  | dcSpeed n v =>
    cases ho
    exact List.forall_mem_singleton.2 (ownsChannel_motorChannel n)
  | stepperInit st rs =>
    cases ho
    simp only [passedPlan, planUpdates, List.forall_mem_cons]
    exact ⟨mergeBits_outside _ _ _ BitVec.zero_and, ownsChannel_chA st, ownsChannel_chB st, rfl, rfl, rfl, rfl, rfl,
      trivial, fun _ h => nomatch h⟩
  | stepperSpeed st rpm =>
    cases ho
    simp only [passedPlan, planUpdates, List.forall_mem_cons]
    exact ⟨rfl, rfl, fun _ h => nomatch h⟩
  | onestep st dir sty =>
    cases ho
    exact List.forall_mem_append.2 ⟨inSlot_stepUpdates s st dir sty, List.forall_mem_singleton.2 trivial⟩
  | step st n dir sty =>
    cases ho
    rw [passedPlan]
    split
    · exact fun _ h => nomatch h
    · exact List.forall_mem_append.2 ⟨inSlot_stepUpdates s st dir sty, List.forall_mem_singleton.2 trivial⟩
  | release st =>
    cases ho
    simp only [passedPlan, planUpdates, List.forall_mem_cons]
    exact ⟨mergeBits_outside _ _ _ BitVec.zero_and, ownsChannel_chA st, ownsChannel_chB st, trivial, fun _ h => nomatch h⟩

/-- Settles O25: every update of the command's plan is in its slot, and so is what the plan leaves. -/
theorem motorCommandsStayInTheirSlot : Obligations.MotorCommandsStayInTheirSlot := by
  intro i o s t ho hexec
  rw [exec_eq_perform] at hexec
  cases hexec
  exact outsideKept_perform (forall_planUpdates (inSlot_passedPlan ho s))

end Sys2Proof.Machine
end

section
/-! PROOF. The PWM generators and the commands (spec/40_latch_pwm.md R160, R162; spec/10_state.md R41). -/

namespace Sys2Proof.Machine

/-! ### Ticks (R160, R162) -/

/-- A tick leaves the other group's channels alone (R160). -/
theorem pwmTick_other_group {g : Group} {ch : Channel} (s : State) (h : channelGroup ch ≠ g) :
    getChannel (pwmTick g s).pwmCnt ch = getChannel s.pwmCnt ch ∧
      getChannel (pwmTick g s).pwmActive ch = getChannel s.pwmActive ch := by
  cases ch <;> exact ⟨if_neg h, if_neg h⟩

/-- Settles O47: a tick of the channel's group wraps its counter at 254 and counts on below. -/
theorem pwmTickMovesOneGroup : Obligations.PwmTickMovesOneGroup := by
  intro s g ch
  refine ⟨?_, ?_, pwmTick_other_group s⟩
  · rintro rfl hwrap
    rw [pwmTick_pwmCnt, pwmTick_pwmActive]
    exact ⟨if_pos hwrap, if_pos hwrap⟩
  · rintro rfl hmore
    rw [pwmTick_pwmCnt, pwmTick_pwmActive]
    exact ⟨if_neg hmore, if_neg hmore⟩

/-- Without PWM a pin shows the duty register (R162). -/
theorem pwmPin_of_not_present {s : State} {ch : Channel} (h : getChannel s.cfg.pwmPresent ch = false) :
    pwmPin s ch = fallbackOn (getChannel s.duty ch) := by rw [pwmPin, h, if_neg Bool.false_ne_true]

/-- Settles O49: the pin without PWM reads the duty register, which a tick does not write. -/
theorem fallbackPinFollowsTheDuty : Obligations.FallbackPinFollowsTheDuty := by
  intro s ch g h
  have htick : pwmPin (pwmTick g s) ch = fallbackOn (getChannel s.duty ch) := pwmPin_of_not_present (s := pwmTick g s) h
  rw [htick, pwmPin_of_not_present h]
  refine ⟨fun h0 => ?_, fun h255 => ?_, rfl⟩
  · rw [h0]; rfl
  · rw [h255]; rfl

/-! ### Commands (R41, R87) -/

section
variable (cnt : PerChannel Nat) (active : PerChannel Byte)

/-- `s` with other counters and active duties in its PWM generators. -/
def withPwm (s : State) : State := { s with pwmCnt := cnt, pwmActive := active }

theorem applyAll_withPwm (us : List Update) (s : State) :
    applyAll us (withPwm cnt active s) = withPwm cnt active (applyAll us s) := by
  rw [applyAll_of_same_registers us (r := s) (s := withPwm cnt active s) rfl,
    applyAll_of_same_registers us (r := s) (s := s) rfl]
  rfl

theorem transact_withPwm (v : Byte) (us : List Update) (s : State) :
    transact v us (withPwm cnt active s) = withPwm cnt active (transact v us s) := by
  have hall : applyAll us (afterPins v (withPwm cnt active s)) = withPwm cnt active (applyAll us (afterPins v s)) :=
    applyAll_withPwm cnt active us (afterPins v s)
  rw [transact_eq, transact_eq, hall]
  rfl

theorem stepMove_withPwm (s : State) : stepMove (withPwm cnt active s) = withPwm cnt active (stepMove s) := by
  rw [stepMove_eq, stepMove_eq]
  rfl

theorem perform_withPwm (p : Plan) (s : State) :
    perform p (withPwm cnt active s) = withPwm cnt active (perform p s) := by
  cases p with
  | raise code => rfl
  | instant ups => rw [perform, perform, applyAll_withPwm]; rfl
  | transfer v ups => exact transact_withPwm cnt active v ups { s with busy := true }
  | enable =>
    have htransfer := transact_withPwm cnt active 0 [.latchState 0] { s with busy := true }
    exact congrArg (fun t => { enableEdge t with clock := s.clock + 19 }) htransfer
  | divide ups => rw [perform, perform, finishDivide, finishDivide, applyAll_withPwm]; rfl
  | steps ctx n => exact stepMove_withPwm cnt active (running ctx n s)

theorem planOf_withPwm (i : Instr) (s : State) : planOf i (withPwm cnt active s) = planOf i s := by cases i <;> rfl

end

/-- Settles O50: no plan looks at the generators, and nothing that carries a plan out does. -/
theorem commandsIgnoreThePwmGenerators : Obligations.CommandsIgnoreThePwmGenerators := by
  intro i s t cnt active hexec
  rw [exec_eq_perform] at hexec
  cases hexec
  show exec i (withPwm cnt active s) = .next (withPwm cnt active (perform (planOf i s) s))
  rw [exec_eq_perform, planOf_withPwm, perform_withPwm]

end Sys2Proof.Machine
end

section
/-! PROOF. Steps of a stepper: the phase keeps its offset within a stride (spec/42_stepper.md R247), and no byte a step
shows has both bits of a coil set (R203). -/

namespace Sys2Proof.Machine

/-! ### The offset of a phase (R247) -/

/-- A stride either way keeps the phase modulo the stride: a revolution is a whole number of strides (R205). -/
theorem nextPhase_mod_stride (c : Params) (dir : Direction) (sty : Style) (p : Byte) :
    (nextPhase c dir sty p).toNat % stride c sty = p.toNat % stride c sty := by
  have hdvd : stride c sty ∣ phases c := Dvd.intro _ (stride_mul_tableLength c sty)
  have hpos : 0 < phases c := Nat.lt_of_lt_of_le (stride_pos c sty) (stride_le_phases c sty)
  have hwrap (x : Nat) : (BitVec.ofNat 8 (x % phases c)).toNat % stride c sty = x % stride c sty := by
    rw [toNat_ofNat_phase (Nat.mod_lt x hpos), Nat.mod_mod_of_dvd x hdvd]
  have hback : (p.toNat + phases c - stride c sty) % stride c sty = p.toNat % stride c sty := by
    obtain ⟨m, hm⟩ := Nat.dvd_sub hdvd (Nat.dvd_refl _)
    rw [Nat.add_sub_assoc (stride_le_phases c sty), hm, Nat.add_mul_mod_self_left]
  cases dir with
  | forward => exact (hwrap _).trans (Nat.add_mod_right _ _)
  | _ => exact (hwrap _).trans hback

/-- Settles O39: the phase ONESTEP leaves is a stride from the old one. -/
theorem stepKeepsTheOffset : Obligations.StepKeepsTheOffset := by
  intro s t st dir sty hdir hen hst _ hexec
  rw [exec_onestep sty hdir hen hst] at hexec
  cases hexec
  rw [onestepped_currentstep]
  exact nextPhase_mod_stride s.cfg dir sty _

/-! ### The bits of a coil (R203) -/

/-- The table entries a phase can show: one of a table, or none past a table's end. -/
def shownEntries : List (List Coil) := [] :: (single4 ++ double4 ++ interleave8)

/-- No entry has both letters of a coil. -/
theorem entryDrive_ne_both : ∀ entry ∈ shownEntries,
    entryDrive entry 255 .a .c ≠ .both ∧ entryDrive entry 255 .b .d ≠ .both := by decide

theorem getD_mem_shownEntries {table : List (List Coil)} (h : ∀ entry ∈ table, entry ∈ shownEntries) (i : Nat) :
    table.getD i [] ∈ shownEntries := by
  by_cases hi : i < table.length
  · rw [List.getD_eq_getElem _ _ hi]
    exact h _ (List.getElem_mem hi)
  · rw [List.getD_eq_default _ _ (Nat.le_of_not_lt hi)]
    exact List.mem_cons_self

/-- A phase shows the bits of such an entry (R210, R213). -/
theorem exists_shownEntry (c : Params) (st : Stepper) (p : Byte) (sty : Style) :
    ∃ entry ∈ shownEntries, (phaseOut c st p sty).set = coilBits c st entry := by
  cases sty with
  | single => exact ⟨_, getD_mem_shownEntries (table := single4) (by decide) _, rfl⟩
  | double => exact ⟨_, getD_mem_shownEntries (table := double4) (by decide) _, rfl⟩
  | interleave => exact ⟨_, getD_mem_shownEntries (table := interleave8) (by decide) _, rfl⟩
  | microstep => exact ⟨_, getD_mem_shownEntries (table := double4) (by decide) _, microstepOut_set c st _ _⟩

/-- Neither coil of stepper `st` has both bits set in a latch byte. -/
def CoilsClear (c : Params) (latch : Byte) (st : Stepper) : Prop :=
  coilPolarity c latch (coil1 st) ≠ .both ∧ coilPolarity c latch (coil2 st) ≠ .both

/-- The byte of StepOnce shows an entry in place of the stepper's bits (R214). -/
theorem coilsClear_stepByte {s : State} (hl : (latchBits s.cfg).Nodup) (st : Stepper) (dir : Direction) (sty : Style) :
    CoilsClear s.cfg (stepByte s st dir sty) st := by
  obtain ⟨entry, hentry, hset⟩ :=
    exists_shownEntry s.cfg st (nextPhase s.cfg dir sty (getStepper s.currentstep st)) sty
  obtain ⟨h1, h2⟩ := entryDrive_ne_both entry hentry
  have hfull (latch : Byte) (n : Motor) : coilPolarity s.cfg latch n = effectiveDrive s.cfg latch 255 n :=
    (if_neg (by decide)).symm
  rw [CoilsClear, hfull, hfull, stepByte, hset, effectiveDrive_coil1 hl, effectiveDrive_coil2 hl]
  exact ⟨h1, h2⟩

/-- Settles O40: ONESTEP, the first step of a STEP and each further one all show StepOnce's byte. -/
theorem noCoilHasBothBits : Obligations.NoCoilHasBothBits := by
  intro s st dir sty hlegal
  have hbyte := coilsClear_stepByte hlegal.layout
  refine ⟨hbyte st dir sty, fun t hdir hen hst hexec => ?_, fun t n hdir hready hn hexec => ?_, ?_⟩
  · rw [exec_onestep sty hdir hen hst] at hexec
    cases hexec
    exact ⟨hbyte st dir sty, hbyte st dir sty⟩
  · rw [exec_step_pos sty hdir hready hn, stepMove_eq] at hexec
    cases hexec
    exact ⟨hbyte st dir sty, hbyte st dir sty⟩
  · rw [stepMove_eq]
    exact ⟨hbyte _ _ _, hbyte _ _ _⟩

end Sys2Proof.Machine
end

section
/-! PROOF. A whole STEP on a ready port: its events, its length, and what it leaves (spec/42_stepper.md R221, R230 to R234;
spec/70_reset_and_hazards.md R321). -/

namespace Sys2Proof.Machine

/-- What each step of a STEP accepted in `s` leaves besides, `k` steps in: no wait, the phase in `result`, and a clock that
has counted the steps and waits (R214, R233, R234). -/
def StepsTimed (s : State) (st : Stepper) (sty : Style) (k : Nat) (t : State) : Prop :=
  t.usRemaining = 0 ∧ t.result = getStepper t.currentstep st ∧
    t.clock = s.clock + k * (18 + (spacing s.cfg sty (getStepper s.usperstep st)).toNat * cycPerUs s.cfg)

section
variable {s : State} {st : Stepper} {n : Half} {dir : Direction} {sty : Style}

/-- A step takes 18 cycles and its wait. -/
theorem AfterSteps.timed_succ {k : Nat} {t : State} (h : AfterSteps s st n dir sty k t)
    (hclock : t.clock = s.clock + k * (18 + (spacing s.cfg sty (getStepper s.usperstep st)).toNat * cycPerUs s.cfg)) :
    StepsTimed s st sty (k + 1) (stepMove t) := by
  rw [stepMove_eq]
  refine ⟨rfl, ?_, ?_⟩
  · rw [stepped, h.ctx]
    exact (getStepper_setStepper_same _ _ _).symm
  · have hspacing : t.stepCtx.spacing = spacing s.cfg sty (getStepper s.usperstep st) := by rw [h.ctx]
    show t.clock + 18 + t.stepCtx.spacing.toNat * cycPerUs t.cfg = _
    rw [hclock, hspacing, h.cfg, Nat.succ_mul]
    omega

/-- The rest of a STEP keeps the time. -/
theorem AfterSteps.timed_rest {k : Nat} {t : State} (hdir : dir.steps = true) (henv : s.env = [])
    (hp : (getStepper s.currentstep st).toNat < phases s.cfg) (h : AfterSteps s st n dir sty k t)
    (ht : StepsTimed s st sty k t) {j : Nat} (hj : k + j = n.toNat) :
    ∃ u, stepTimes j t = .next u ∧ AfterSteps s st n dir sty n.toNat u ∧ StepsTimed s st sty n.toNat u := by
  induction j generalizing k t with
  | zero => exact ⟨t, rfl, hj ▸ h, hj ▸ ht⟩
  | succ j ih =>
    have hk : k < n.toNat := by omega
    have hstep := step_at_boundary (h.env.trans henv) (h.atStepBoundary hk)
    obtain ⟨-, -, hclock⟩ := ht
    obtain ⟨u, hrun, hu⟩ := ih (h.succ hdir hp hk) (h.timed_succ hclock) (by omega)
    exact ⟨u, (stepTimes_succ_of_step hstep j).trans hrun, hu⟩

/-- A STEP of `n > 0` accepted in `s` runs to its end in `n` steps of the machine, on time. -/
theorem stepTimes_timed {r : State} (hdir : dir.steps = true) (hn : n ≠ 0) (hidle : s.seqState = .idle)
    (henv : s.env = []) (hready : StepReady s st) (hp : (getStepper s.currentstep st).toNat < phases s.cfg)
    (hr : step r = exec (.step st n dir sty) s) :
    ∃ u, stepTimes n.toNat r = .next u ∧ AfterSteps s st n dir sty n.toNat u ∧ StepsTimed s st sty n.toNat u := by
  have hpos : 0 < n.toNat := by bv_omega
  have hzero := afterSteps_zero (dir := dir) (sty := sty) hidle hready hn hp
  have hfirst := hzero.succ hdir hp hpos
  have hclock : (stepStarted s st n dir sty).clock =
      s.clock + 0 * (18 + (spacing s.cfg sty (getStepper s.usperstep st)).toNat * cycPerUs s.cfg) := by
    rw [Nat.zero_mul]; rfl
  obtain ⟨u, hrun, hu⟩ := hfirst.timed_rest hdir henv hp (hzero.timed_succ hclock) (j := n.toNat - 1) (by omega)
  have hstep := stepTimes_succ_of_step (hr.trans (exec_step_pos sty hdir hready hn)) (n.toNat - 1)
  rw [Nat.sub_add_cancel hpos] at hstep
  exact ⟨u, hstep.trans hrun, hu⟩

/-- On the port of a block ready for it, a STEP of `n > 0` runs to its end. -/
theorem stepTimes_of_presented (henv : s.env = []) (hvalid : s.cmdValid = true) (hready : cmdReady s = true)
    (hdec : decodeWord s.cmdWord = .ok (.step st n dir sty)) (hn : n ≠ 0) (hchecks : StepReady s st)
    (hp : (getStepper s.currentstep st).toNat < phases s.cfg) :
    ∃ u, stepTimes n.toNat s = .next u ∧ AfterSteps (taken s) st n dir sty n.toNat u ∧
      StepsTimed (taken s) st sty n.toNat u := by
  obtain ⟨-, -, hidle⟩ := (cmdReady_iff s).1 hready
  have hdir : dir.steps = true := (encodeOfDecodeIsTheWord _ _ hdec).2
  have hstep : step s = exec (.step st n dir sty) (taken s) :=
    stepRunsTheDecodedCommand s _ ⟨.inl henv, hvalid, hready⟩ hdec
  exact stepTimes_timed (s := taken s) hdir hn hidle henv ⟨hchecks.enabled, hchecks.initialized, hchecks.speedSet⟩ hp
    hstep

/-- The events of `k` steps are `k`. -/
theorem AfterSteps.events_length {k : Nat} {t : State} (h : AfterSteps s st n dir sty k t) :
    t.events.length = s.events.length + k := by
  have hlength := congrArg List.length h.trace
  simpa [Machine.trace] using hlength

end

/-- Settles O36: the trace after all `n` steps. -/
theorem wholeStepTrace : Obligations.WholeStepTrace := by
  intro s st n dir sty henv hvalid hready hdec hn hchecks hphases
  obtain ⟨u, hrun, hu, -⟩ := stepTimes_of_presented henv hvalid hready hdec hn hchecks (hphases st)
  exact ⟨u, hrun, hu.trace⟩

/-- Settles O35: what holds after all `n` steps. -/
theorem wholeStepCompletes : Obligations.WholeStepCompletes := by
  intro s st n dir sty henv hvalid hready hdec hn hchecks hphases
  obtain ⟨-, hfault, -⟩ := (cmdReady_iff s).1 hready
  obtain ⟨u, hrun, hu, hwait, hresult, hclock⟩ :=
    stepTimes_of_presented henv hvalid hready hdec hn hchecks (hphases st)
  have hrem : u.stepsRemaining = 0 := BitVec.eq_of_toNat_eq (Nat.add_eq_right.1 hu.remaining)
  have hphase : (getStepper u.currentstep st).toNat =
      phaseAfter s.cfg dir sty (getStepper s.currentstep st) n.toNat := by
    rw [hu.phase]
    exact toNat_ofNat_phase (phaseAfter_lt s.cfg dir sty n.toNat (hphases st))
  exact ⟨u, hrun, hu.cmdReady hfault, hu.cmdValid, hrem, hwait, hphase, hresult, hu.events_length, hclock⟩

end Sys2Proof.Machine
end
